-- ==== Sys2Proof/Word.lean ====
section
/-! DEFINITION. The word types of the jsnuke OPL3 FM core: a register byte, the 34-bit host command word of rule R80, a
signed 16-bit sample, and the numbers of channels, operators and output positions. -/

namespace Sys2Proof

/-- One register location: a byte (R22, R62). -/
abbrev Byte := BitVec 8

/-- The host command word `W` of R80: 34 bits, operation code in bits 33:32, payload in bits 31:0. -/
abbrev HostWord := BitVec 34

/-- One output sample: 16 bits, read as a signed number (R35, R36, R63). -/
abbrev Sample := BitVec 16

/-- An operator number, 0 to 35 (R7, R27). -/
abbrev OpNum := Fin 36

/-- A channel number, 0 to 17 (R7, R28). -/
abbrev ChanNum := Fin 18

/-- An output position, 0 to 3: outputs A, B, C, D (R7, R281). -/
abbrev OutPos := Fin 4

/-- A frame: one sample for each of the four outputs (R63, `N_OUT` = 4 in R5). -/
abbrev Frame := Vector Sample 4

end Sys2Proof
end

