-- ==== Sys2Proof/Syntax.lean ====
section
/-! DEFINITION. The host operations of the core (R80) as one inductive: `RESET`, `GEN`, `GETBUF`, and one `WRITE` for each
register kind of the map R86, plus the out-of-range `WRITE` of R85 step (1). One constructor for each mnemonic of
spec/opcode_table.json. -/

namespace Sys2Proof

/-- One host operation. The core fetches no instructions (R1, R37): what stands in their place is the host operation, and
inside `WRITE` the register address that selects what the byte means. -/
inductive Instr where
  /-- `RESET rate` (R121): `rate` output frames per second, unsigned 32 bits (R82). -/
  | reset (rate : BitVec 32)
  /-- `GEN` (R123). -/
  | gen
  /-- `GETBUF` (R124). -/
  | getbuf
  /-- `WRITE a, v` at a reserved address (R164). -/
  | writeRsvd (a : BitVec 9) (v : Byte)
  /-- `WRITE 0x001, v` (R148). -/
  | writeReg01 (v : Byte)
  /-- `WRITE 0x002, v` (R149). -/
  | writeReg02 (v : Byte)
  /-- `WRITE 0x003, v` (R150). -/
  | writeReg03 (v : Byte)
  /-- `WRITE 0x004, v` (R151). -/
  | writeReg04 (v : Byte)
  /-- `WRITE 0x008, v`: note select (R152). -/
  | writeNts (v : Byte)
  /-- `WRITE 0x104, v`: 4-op enable bits (R153). -/
  | writeConn4 (v : Byte)
  /-- `WRITE 0x105, v`: OPL3-new mode (R154). -/
  | writeNew (v : Byte)
  /-- `WRITE B + 0x20 + A(o), v`: AM, VIB, EGT, KSR, MULT of operator `o` (R155). -/
  | writeOp20 (o : OpNum) (v : Byte)
  /-- `WRITE B + 0x40 + A(o), v`: KSL, TL of operator `o` (R156). -/
  | writeOp40 (o : OpNum) (v : Byte)
  /-- `WRITE B + 0x60 + A(o), v`: AR, DR of operator `o` (R157). -/
  | writeOp60 (o : OpNum) (v : Byte)
  /-- `WRITE B + 0x80 + A(o), v`: SL, RR of operator `o` (R158). -/
  | writeOp80 (o : OpNum) (v : Byte)
  /-- `WRITE B + 0xE0 + A(o), v`: WS of operator `o` (R159). -/
  | writeOpE0 (o : OpNum) (v : Byte)
  /-- `WRITE B + 0xA0 + j, v`: low byte of FNUM of channel `c` (R160). -/
  | writeChA0 (c : ChanNum) (v : Byte)
  /-- `WRITE B + 0xB0 + j, v`: KON, BLOCK, high bits of FNUM of channel `c` (R161). -/
  | writeChB0 (c : ChanNum) (v : Byte)
  /-- `WRITE B + 0xC0 + j, v`: output select, FB, CNT of channel `c` (R162). -/
  | writeChC0 (c : ChanNum) (v : Byte)
  /-- `WRITE 0x0BD, v`: LFO depths, rhythm enable, percussion keys (R163). -/
  | writeBd (v : Byte)
  /-- `WRITE addr, v` with `addr` above 511 (R165). -/
  | writeOor (addr : BitVec 16) (v : Byte)
  deriving DecidableEq, Repr

end Sys2Proof
end

