-- ==== Sys2Proof/WellFormed.lean ====
section
/-! DEFINITION. When an `Instr` term stands for a host operation: a reserved `WRITE` names a reserved address of the map
R86, an out-of-range `WRITE` an address above 511. Every other operand is in range by its type. -/

namespace Sys2Proof

/-- The eight named single addresses of R86: `REG01` to `REG04`, `NTS`, `BD`, `CONN4`, `NEW`. -/
def isNamedAddr (a : BitVec 9) : Bool :=
  [0x001#9, 0x002#9, 0x003#9, 0x004#9, 0x008#9, 0x0BD#9, 0x104#9, 0x105#9].contains a

/-- An address of an operator register (R86, R87): `group` in {1, 2, 3, 4, 7} and `off` an operator offset. -/
def isOperatorAddr (a : BitVec 9) : Bool :=
  [1#3, 2#3, 3#3, 4#3, 7#3].contains (a.extractLsb' 5 3) &&
    decide ((a.extractLsb' 0 3).toNat ≤ 5) && decide ((a.extractLsb' 3 2).toNat ≤ 2)

/-- An address of a channel register (R86, R88): `lo[7:4]` in {0xA, 0xB, 0xC} and `lo[3:0]` at most 8. -/
def isChannelAddr (a : BitVec 9) : Bool :=
  [0xA#4, 0xB#4, 0xC#4].contains (a.extractLsb' 4 4) && decide ((a.extractLsb' 0 4).toNat ≤ 8)

/-- A reserved address (R102): valid, and in no other row of the map R86. -/
def isReservedAddr (a : BitVec 9) : Bool :=
  !isNamedAddr a && !isOperatorAddr a && !isChannelAddr a

/-- Out of range (R61, R85 step (1)): the whole 16-bit address is above 511. -/
def isOutOfRange (addr : BitVec 16) : Bool := decide (511 < addr.toNat)

/-- The checks on an operation's operands. -/
def Instr.wf : Instr → Bool
  | .writeRsvd a _ => isReservedAddr a
  | .writeOor addr _ => isOutOfRange addr
  | .reset _ => true
  | .gen => true
  | .getbuf => true
  | .writeReg01 _ => true
  | .writeReg02 _ => true
  | .writeReg03 _ => true
  | .writeReg04 _ => true
  | .writeNts _ => true
  | .writeConn4 _ => true
  | .writeNew _ => true
  | .writeOp20 _ _ => true
  | .writeOp40 _ _ => true
  | .writeOp60 _ _ => true
  | .writeOp80 _ _ => true
  | .writeOpE0 _ _ => true
  | .writeChA0 _ _ => true
  | .writeChB0 _ _ => true
  | .writeChC0 _ _ => true
  | .writeBd _ => true

end Sys2Proof
end

