-- ==== Sys2Proof/Decode.lean ====
section
/-! DEFINITION. From the bits of a host command word to the operation it stands for (R80 to R88), the register address of
every operand (R27, R28), and the encoder (R80, R107). The address functions are shared with the field views. -/

namespace Sys2Proof

/-! ## Register addresses of operators and channels -/

/-- `A(o)` of R27: the offset of operator `o` inside each of its register groups. -/
def opOffset (o : OpNum) : Nat := 8 * (o.val % 18 / 6) + o.val % 18 % 6

/-- `B + base + A(o)` with `B = 0x100 * (o / 18)` (R26, R27). -/
def opAddr (base : Nat) (o : OpNum) : BitVec 9 := BitVec.ofNat 9 (0x100 * (o.val / 18) + base + opOffset o)

/-- `B + base + j` with `B = 0x100 * (c / 9)` and `j = c mod 9` (R25, R28). -/
def chanAddr (base : Nat) (c : ChanNum) : BitVec 9 := BitVec.ofNat 9 (0x100 * (c.val / 9) + base + c.val % 9)

/-! ## Decoding -/

/-- Why a number is no host command word. -/
inductive DecodeError where
  /-- The number does not fit the 34 bits of R80. Safe: nothing is run. -/
  | notAHostWord
  deriving DecidableEq, Repr

/-- R87: the operator that `off` names in bank `bank`, if any. -/
def opAtOffset (bank : Bool) (off : BitVec 5) : Option OpNum :=
  if (off.extractLsb' 0 3).toNat ≤ 5 ∧ (off.extractLsb' 3 2).toNat ≤ 2 then
    some (Fin.ofNat 36 (18 * bank.toNat + 6 * (off.extractLsb' 3 2).toNat + (off.extractLsb' 0 3).toNat))
  else none

/-- R88: the channel that `lo[3:0]` names in bank `bank`, if any. -/
def chanAtOffset (bank : Bool) (j : BitVec 4) : Option ChanNum :=
  if j.toNat ≤ 8 then some (Fin.ofNat 18 (9 * bank.toNat + j.toNat)) else none

/-- The global registers of R86, selected by the whole of `bank` and `lo`. -/
def decodeNamed (a : BitVec 9) (v : Byte) : Option Instr :=
  if a = 0x001#9 then some (.writeReg01 v)
  else if a = 0x002#9 then some (.writeReg02 v)
  else if a = 0x003#9 then some (.writeReg03 v)
  else if a = 0x004#9 then some (.writeReg04 v)
  else if a = 0x008#9 then some (.writeNts v)
  else if a = 0x0BD#9 then some (.writeBd v)
  else if a = 0x104#9 then some (.writeConn4 v)
  else if a = 0x105#9 then some (.writeNew v)
  else none

/-- The operator registers of R86: `group = a[7:5]` in {1, 2, 3, 4, 7}, `off = a[4:0]` naming the operator. -/
def decodeOperatorReg (a : BitVec 9) (v : Byte) : Option Instr :=
  match opAtOffset (a.getLsbD 8) (a.extractLsb' 0 5) with
  | none => none
  | some o =>
    let group := a.extractLsb' 5 3
    if group = 1#3 then some (.writeOp20 o v)
    else if group = 2#3 then some (.writeOp40 o v)
    else if group = 3#3 then some (.writeOp60 o v)
    else if group = 4#3 then some (.writeOp80 o v)
    else if group = 7#3 then some (.writeOpE0 o v)
    else none

/-- The channel registers of R86: `lo[7:4]` in {0xA, 0xB, 0xC}, `lo[3:0]` naming the channel. -/
def decodeChannelReg (a : BitVec 9) (v : Byte) : Option Instr :=
  match chanAtOffset (a.getLsbD 8) (a.extractLsb' 0 4) with
  | none => none
  | some c =>
    let hi := a.extractLsb' 4 4
    if hi = 0xA#4 then some (.writeChA0 c v)
    else if hi = 0xB#4 then some (.writeChB0 c v)
    else if hi = 0xC#4 then some (.writeChC0 c v)
    else none

/-- R85 steps (2) and (3): the `WRITE` at a valid address; what no other row claims is reserved (R102). -/
def decodeRegister (a : BitVec 9) (v : Byte) : Instr :=
  match decodeNamed a v with
  | some i => i
  | none =>
    match decodeOperatorReg a v with
    | some i => i
    | none =>
      match decodeChannelReg a v with
      | some i => i
      | none => .writeRsvd a v

/-- R85: the range test on the whole 16-bit address comes first (R303). -/
def decodeWrite (addr : BitVec 16) (v : Byte) : Instr :=
  if addr.extractLsb' 9 7 ≠ 0#7 then .writeOor addr v else decodeRegister (addr.extractLsb' 0 9) v

/-- R80, R81: the operation of a host command word. All four codes are used, so no word is refused; `W[31:24]` of a
`WRITE` (R83) and `W[31:0]` of `GEN` and `GETBUF` (R84) are ignored. -/
def decodeWord (w : HostWord) : Instr :=
  let cmd := w.extractLsb' 32 2
  if cmd = 0#2 then .reset (w.extractLsb' 0 32)
  else if cmd = 1#2 then decodeWrite (w.extractLsb' 8 16) (w.extractLsb' 0 8)
  else if cmd = 2#2 then .gen
  else .getbuf

/-- The operation written as a number: its 34 bits, and nothing above them (R80). -/
def decode (n : Nat) : Except DecodeError Instr :=
  if n < 2 ^ 34 then .ok (decodeWord (BitVec.ofNat 34 n)) else .error .notAHostWord

/-- The bits of an opcode-table word, as the table numbers them; bits from `nbits` up are 0. -/
def tableWord (nbits w : Nat) : Nat := w % 2 ^ nbits

/-- The operation the decoder reads from a word of spec/opcode_table.json. -/
def decodeTableWord (nbits w : Nat) : Option Instr :=
  match decode (tableWord nbits w) with
  | .ok i => some i
  | .error _ => none

/-! ## Encoding -/

/-- R80: operation code and payload side by side. -/
def hostWord (cmd : BitVec 2) (payload : BitVec 32) : HostWord := cmd ++ payload

/-- R83, R107: the canonical `WRITE` word; the ignored byte `W[31:24]` is emitted as zero. -/
def writeWord (addr : BitVec 16) (v : Byte) : HostWord := hostWord 1#2 (0#8 ++ addr ++ v)

/-- The 16-bit operand of a `WRITE` at a valid address. -/
def wideAddr (a : BitVec 9) : BitVec 16 := a.setWidth 16

/-- The canonical word of an operation (R80, R84, R107). -/
def encode : Instr → HostWord
  | .reset rate => hostWord 0#2 rate
  | .gen => hostWord 2#2 0#32
  | .getbuf => hostWord 3#2 0#32
  | .writeRsvd a v => writeWord (wideAddr a) v
  | .writeReg01 v => writeWord 0x001#16 v
  | .writeReg02 v => writeWord 0x002#16 v
  | .writeReg03 v => writeWord 0x003#16 v
  | .writeReg04 v => writeWord 0x004#16 v
  | .writeNts v => writeWord 0x008#16 v
  | .writeConn4 v => writeWord 0x104#16 v
  | .writeNew v => writeWord 0x105#16 v
  | .writeOp20 o v => writeWord (wideAddr (opAddr 0x20 o)) v
  | .writeOp40 o v => writeWord (wideAddr (opAddr 0x40 o)) v
  | .writeOp60 o v => writeWord (wideAddr (opAddr 0x60 o)) v
  | .writeOp80 o v => writeWord (wideAddr (opAddr 0x80 o)) v
  | .writeOpE0 o v => writeWord (wideAddr (opAddr 0xE0 o)) v
  | .writeChA0 c v => writeWord (wideAddr (chanAddr 0xA0 c)) v
  | .writeChB0 c v => writeWord (wideAddr (chanAddr 0xB0 c)) v
  | .writeChC0 c v => writeWord (wideAddr (chanAddr 0xC0 c)) v
  | .writeBd v => writeWord 0x0BD#16 v
  | .writeOor addr v => writeWord addr v

end Sys2Proof
end

