-- ==== Sys2Proof/Config.lean ====
section
/-! DEFINITION. What an implementation of the core fixes and the spec leaves open: the one OPEN parameter of R5,
`OUTBUF_BASE`. (The numeric parameters and tables of R5 that the spec does fix stand in Machine/Params.lean.) -/

namespace Sys2Proof.Config

/-- `OUTBUF_BASE / 2`: R5 and R124 leave the base open ("any constant, 2-byte aligned"), so it is an opaque constant and
nothing can be proved of its value. -/
opaque outbufHalf : Nat

/-- `OUTBUF_BASE` (R124): the constant `GETBUF` returns, a multiple of 2 by construction (R65). -/
def outbufBase : Nat := 2 * outbufHalf

end Sys2Proof.Config
end

