-- ==== Sys2Proof/Machine/Params.lean ====
section
/-! DEFINITION. The parameters of R5 whose values the spec fixes, and its tables. They stand here, and not in Config.lean,
so that a table entry can be mended. The counts 18, 36 and 4 (`N_CH`, `N_OP`, `N_OUT`) and the widths are in the types. -/

namespace Sys2Proof.Machine

/-- `ADDR_MAX` (R5): the highest valid register address. -/
def addrMax : Nat := 511

/-- `NATIVE_RATE` (R5): native ticks per second, as the ratio uses it. -/
def nativeRate : Nat := 49716

/-- `RSM_FRAC` (R5): fraction bits of the resampler. -/
def rsmFrac : Nat := 10

/-- `RATE_MIN` (R5, R126): the lowest sample rate with a non-zero ratio. -/
def rateMin : Nat := 49

/-- `TREM_LEN` (R5, R213). -/
def tremLen : Nat := 210

/-- `TREM_DIV` (R5, R213). -/
def tremDiv : Nat := 64

/-- `VIB_DIV` (R5, R214). `VIB_LEN` = 8 is the wrap of the 3-bit `vibPos`. -/
def vibDiv : Nat := 1024

/-- `NOISE_RESET` (R5, R38). -/
def noiseReset : BitVec 23 := 1#23

/-- The log value 0x1000, for which `Exp` is 0 at every attenuation (R200). -/
def mute : Nat := 0x1000

/-- `MT` of R105: twice the frequency ratio, by multiplier index. -/
def mtTable : List Nat := [1, 2, 4, 6, 8, 10, 12, 14, 16, 18, 20, 20, 24, 24, 30, 30]

/-- `MT[m]` (R105). -/
def multOf (m : BitVec 4) : Nat := mtTable.getD m.toNat 0

/-- `KSLROM` of R194. -/
def kslRomTable : List Nat := [0, 32, 40, 45, 48, 51, 53, 55, 56, 58, 59, 60, 61, 62, 63, 64]

/-- `KSLROM[i]` (R194). -/
def kslRom (i : BitVec 4) : Nat := kslRomTable.getD i.toNat 0

/-- `KSLSHIFT[i]` of R194. -/
def kslShift (i : BitVec 2) : Nat := [8, 1, 2, 0].getD i.toNat 0

/-- `EG_INCSH` of R187. -/
def egIncShTable : List Int := [0, 11, 10, 9, 8, 7, 6, 5, 4, 3, 2, 1, 0, 0, -1, -2]

/-- `EG_INCSH[rh]` (R187). -/
def egIncSh (rh : Nat) : Int := egIncShTable.getD rh 0

/-- `EG_INCDESC` of R187. -/
def egIncDescTable : List Nat := [0, 1, 1, 1, 1, 1, 1, 1, 1, 1, 1, 1, 1, 2, 2, 2]

/-- `EG_INCDESC[rh]` (R187). -/
def egIncDesc (rh : Nat) : Nat := egIncDescTable.getD rh 0

/-- `EG_INCSTEP[1]` of R187, by `rl` and step. -/
def egIncStepSlow : List (List Nat) :=
  [[0, 1, 0, 1, 0, 1, 0, 1],
   [0, 1, 0, 1, 1, 1, 0, 1],
   [0, 1, 1, 1, 0, 1, 1, 1],
   [0, 1, 1, 1, 1, 1, 1, 1]]

/-- `EG_INCSTEP[2]` of R187, by `rl` and step. -/
def egIncStepFast : List (List Nat) :=
  [[1, 1, 1, 1, 1, 1, 1, 1],
   [2, 2, 1, 1, 1, 1, 1, 1],
   [2, 2, 1, 1, 2, 2, 1, 1],
   [2, 2, 2, 2, 2, 2, 1, 1]]

/-- `EG_INCSTEP[d][rl][step]` (R187); `d` = 0 is all zeros. -/
def egIncStep (d rl step : Nat) : Nat :=
  if d = 1 then (egIncStepSlow.getD rl []).getD step 0
  else if d = 2 then (egIncStepFast.getD rl []).getD step 0
  else 0

/-! ## `LOGSIN` (R198) -/

/-- Entries 0 to 63. -/
def logsinTable0 : List Nat :=
  [2137, 1731, 1543, 1419, 1326, 1252, 1190, 1137, 1091, 1050, 1013, 979, 949, 920, 894, 869,
   846, 825, 804, 785, 767, 749, 732, 717, 701, 687, 672, 659, 646, 633, 621, 609,
   598, 587, 576, 566, 556, 546, 536, 527, 518, 509, 501, 492, 484, 476, 468, 461,
   453, 446, 439, 432, 425, 418, 411, 405, 399, 392, 386, 380, 375, 369, 363, 358]

/-- Entries 64 to 127. -/
def logsinTable1 : List Nat :=
  [352, 347, 341, 336, 331, 326, 321, 316, 311, 307, 302, 297, 293, 289, 284, 280,
   276, 271, 267, 263, 259, 255, 251, 248, 244, 240, 236, 233, 229, 226, 222, 219,
   215, 212, 209, 205, 202, 199, 196, 193, 190, 187, 184, 181, 178, 175, 172, 169,
   167, 164, 161, 159, 156, 153, 151, 148, 146, 143, 141, 138, 136, 134, 131, 129]

/-- Entries 128 to 191. -/
def logsinTable2 : List Nat :=
  [127, 125, 122, 120, 118, 116, 114, 112, 110, 108, 106, 104, 102, 100, 98, 96,
   94, 92, 91, 89, 87, 85, 83, 82, 80, 78, 77, 75, 74, 72, 70, 69,
   67, 66, 64, 63, 62, 60, 59, 57, 56, 55, 53, 52, 51, 49, 48, 47,
   46, 45, 43, 42, 41, 40, 39, 38, 37, 36, 35, 34, 33, 32, 31, 30]

/-- Entries 192 to 255. -/
def logsinTable3 : List Nat :=
  [29, 28, 27, 26, 25, 24, 23, 23, 22, 21, 20, 20, 19, 18, 17, 17,
   16, 15, 15, 14, 13, 13, 12, 12, 11, 10, 10, 9, 9, 8, 8, 7,
   7, 7, 6, 6, 5, 5, 5, 4, 4, 4, 3, 3, 3, 2, 2, 2,
   2, 1, 1, 1, 1, 1, 1, 1, 0, 0, 0, 0, 0, 0, 0, 0]

/-- `LOGSIN[0..255]` of R198: a quarter of the sine cycle, in 1/256 of a halving. -/
def logsinTable : List Nat := logsinTable0 ++ logsinTable1 ++ logsinTable2 ++ logsinTable3

/-- `LOGSIN[i]` (R198). -/
def logsin (i : BitVec 8) : Nat := logsinTable.getD i.toNat 0

/-! ## `EXPROM` (R199) -/

/-- Entries 0 to 63. -/
def expromTable0 : List Nat :=
  [0, 3, 6, 8, 11, 14, 17, 20, 22, 25, 28, 31, 34, 37, 40, 42,
   45, 48, 51, 54, 57, 60, 63, 66, 69, 72, 75, 78, 81, 84, 87, 90,
   93, 96, 99, 102, 105, 108, 111, 114, 117, 120, 123, 126, 130, 133, 136, 139,
   142, 145, 148, 152, 155, 158, 161, 164, 168, 171, 174, 177, 181, 184, 187, 190]

/-- Entries 64 to 127. -/
def expromTable1 : List Nat :=
  [194, 197, 200, 204, 207, 210, 214, 217, 220, 224, 227, 231, 234, 237, 241, 244,
   248, 251, 255, 258, 262, 265, 268, 272, 276, 279, 283, 286, 290, 293, 297, 300,
   304, 308, 311, 315, 318, 322, 326, 329, 333, 337, 340, 344, 348, 352, 355, 359,
   363, 367, 370, 374, 378, 382, 385, 389, 393, 397, 401, 405, 409, 412, 416, 420]

/-- Entries 128 to 191. -/
def expromTable2 : List Nat :=
  [424, 428, 432, 436, 440, 444, 448, 452, 456, 460, 464, 468, 472, 476, 480, 484,
   488, 492, 496, 501, 505, 509, 513, 517, 521, 526, 530, 534, 538, 542, 547, 551,
   555, 560, 564, 568, 572, 577, 581, 585, 590, 594, 599, 603, 607, 612, 616, 621,
   625, 630, 634, 639, 643, 648, 652, 657, 661, 666, 670, 675, 680, 684, 689, 693]

/-- Entries 192 to 255. -/
def expromTable3 : List Nat :=
  [698, 703, 708, 712, 717, 722, 726, 731, 736, 741, 745, 750, 755, 760, 765, 770,
   774, 779, 784, 789, 794, 799, 804, 809, 814, 819, 824, 829, 834, 839, 844, 849,
   854, 859, 864, 869, 874, 880, 885, 890, 895, 900, 906, 911, 916, 921, 927, 932,
   937, 942, 948, 953, 959, 964, 969, 975, 980, 986, 991, 996, 1002, 1007, 1013, 1018]

/-- `EXPROM[0..255]` of R199. -/
def expromTable : List Nat := expromTable0 ++ expromTable1 ++ expromTable2 ++ expromTable3

/-- `EXPROM[i]` (R199). -/
def exprom (i : Nat) : Nat := expromTable.getD i 0

end Sys2Proof.Machine
end

