-- ==== Sys2Proof/Machine/State.lean ====
section
/-! DEFINITION. The state of the core as plain data: the Chip State of R20 (rules R21, R22, R29 to R36, and nothing else),
and beside it the two things the model needs to let a host drive it step by step: the host's operations still to be issued,
and what the last operation returned to the host. -/

namespace Sys2Proof.Machine

/-! ## The register file -/

/-- The register file of R22, one entry for each address that holds a byte other than the reset value 0x00 (R38). -/
abbrev Memory := List Host.Cell

/-- What an unlisted register address holds: the reset value of R38. -/
def unlisted : Byte := 0x00#8

/-- The canonical form from address `lo` up: addresses strictly rising, below 512, no entry equal to `unlisted`. -/
def Memory.wfFrom : Nat → Memory → Bool
  | _, [] => true
  | lo, (a, v) :: m => decide (lo ≤ a) && decide (a < 512) && decide (v ≠ unlisted) && Memory.wfFrom (a + 1) m

/-- The canonical form of the register file, so that equal files are equal lists. -/
def Memory.wf (m : Memory) : Bool := Memory.wfFrom 0 m

/-! ## Operators -/

/-- The envelope stage of R30. -/
inductive Stage where
  | off
  | attack
  | decay
  | sustain
  | release
  deriving DecidableEq, Repr

/-- The 3-bit encoding of R30. -/
def Stage.code : Stage → BitVec 3
  | .off => 0#3
  | .attack => 1#3
  | .decay => 2#3
  | .sustain => 3#3
  | .release => 4#3

/-- The dynamic state of one operator (R29 to R32). -/
structure Operator where
  /-- Phase accumulator, 10.9 fixed point (R29). -/
  phase : BitVec 19
  /-- Envelope stage (R30). -/
  stage : Stage
  /-- Envelope level, 0 silence to 511 full (R31). -/
  level : BitVec 9
  /-- Sample of the last tick, a signed integer (R32). -/
  out : Int
  /-- Sample of the tick before (R32). -/
  prevOut : Int
  deriving DecidableEq, Repr

/-- An operator after `RESET` (R38). -/
def Operator.zero : Operator := { phase := 0#19, stage := .off, level := 0#9, out := 0, prevOut := 0 }

/-! ## The Chip State -/

/-- The Chip State of R20. -/
structure Chip where
  /-- A `RESET` has completed (R21). -/
  init : Bool
  /-- The 512 raw register bytes (R22). -/
  regs : Memory
  /-- The 36 operators (R29 to R32). -/
  ops : Vector Operator 36
  /-- Native ticks since `RESET`, modulo 16384 (R33). -/
  timer : BitVec 14
  /-- Position in the tremolo triangle, 0 to 209 (R33). -/
  tremPos : BitVec 8
  /-- Position in the vibrato cycle (R33). -/
  vibPos : BitVec 3
  /-- Noise shift register, never zero (R34). -/
  noise : BitVec 23
  /-- Length of one native tick in 1/1024 output frames (R35, R283). -/
  rateratio : BitVec 27
  /-- Resampler position (R35). -/
  samplecnt : BitVec 28
  /-- Clipped native frame of the last tick (R35). -/
  cur : Frame
  /-- Clipped native frame of the tick before (R35). -/
  old : Frame
  /-- The output frame, the last-rendered buffer (R36). -/
  outbuf : Frame
  deriving DecidableEq, Repr

/-! ## The host's side -/

/-- What an operation hands back to the host (R80): nothing, a frame (`GEN`, R123), or an address (`GETBUF`, R124). -/
inductive Reply where
  | void
  | frame (f : Frame)
  | address (base : Nat)
  deriving DecidableEq, Repr

/-- The whole state of the model. `pending` and `reply` are the MODEL's own fields (log entries 1 and 2): the core itself
holds no program and no queue (R37, R70). -/
structure State where
  /-- The Chip State (R20). -/
  chip : Chip
  /-- The host's operations still to be issued, the next one first (R6, R69). -/
  pending : List HostWord
  /-- What the last operation returned to the host (R39, R80). -/
  reply : Reply
  deriving DecidableEq, Repr

/-- Why a step stops with a fault. The core has no exceptions (R300). -/
inductive Fault where
  /-- `GEN` in a state whose `rateratio` is 0, where the loop of R284 does not end. Raised by `execGen`. No run reaches such a
  state (R35, R283); safe: the model stops where the spec's loop never returns. -/
  | tickLoopEndless
  deriving DecidableEq, Repr

/-- Why a step has no meaning. -/
inductive Refusal where
  /-- An instruction without a meaning yet, by its mnemonic. Raised by no arm of `exec`. Safe. -/
  | notModelled (mnemonic : String)
  /-- `WRITE`, `GEN` or `GETBUF` before the first `RESET` (R125). Raised by each of their meanings. Safe: the spec itself
  refuses the operation. -/
  | beforeReset
  deriving DecidableEq, Repr

/-- A frame of four zero samples. -/
def zeroFrame : Frame := #v[0#16, 0#16, 0#16, 0#16]

/-- The machine right after the `RESET` operation, the one reset of the core (R330, R38). The operand of that `RESET` is
the model's choice, 49716 frames per second, so `rateratio` = 1024 (DESIGN CHOICE, log entry 3); every other element has
the one value of R38. No operation is pending and nothing has been returned. -/
def State.reset : State where
  chip :=
    { init := true, regs := [], ops := Vector.replicate 36 Operator.zero, timer := 0#14, tremPos := 0#8, vibPos := 0#3,
      noise := 1#23, rateratio := 1024#27, samplecnt := 0#28, cur := zeroFrame, old := zeroFrame, outbuf := zeroFrame }
  pending := []
  reply := .void

end Sys2Proof.Machine
end

