-- ==== Sys2Proof/Machine/Ops.lean ====
section
/-! DEFINITION. The named operations over the register file, the operators and the output buffer, the arithmetic
primitives of R8, and what `RESET` leaves. The core takes no exception and returns from none (R300, R304), so no operation
here does. -/

namespace Sys2Proof.Machine

/-! ## The register file (R22) -/

/-- `regs[a]`: the byte last written to `a`, or the reset value. -/
def Memory.read : Memory → Nat → Byte
  | [], _ => unlisted
  | (b, w) :: m, a => if a = b then w else Memory.read m a

/-- `regs[a] <- v`, kept in canonical form: writing the reset value removes the entry. -/
def Memory.write : Memory → Nat → Byte → Memory
  | [], a, v => if v = unlisted then [] else [(a, v)]
  | (b, w) :: m, a, v =>
    if a < b then (if v = unlisted then (b, w) :: m else (a, v) :: (b, w) :: m)
    else if a = b then (if v = unlisted then m else (a, v) :: m)
    else (b, w) :: Memory.write m a v

/-! ## The operators (R27) -/

/-- "for every operator o in 0..35", each from its own state (R147, R180 pass 1). -/
def mapOps (f : OpNum → Operator → Operator) (ops : Vector Operator 36) : Vector Operator 36 :=
  Vector.ofFn fun o : OpNum => f o ops[o]

/-- The operators 0, 1, ..., 35 in increasing number (R180 pass 2). -/
def opOrder : List OpNum := List.finRange 36

/-- The channels 0, 1, ..., 17 in increasing number (R282). -/
def chanOrder : List ChanNum := List.finRange 18

/-! ## Arithmetic primitives (R8) -/

/-- `clip16(v)` (R8). -/
def clip16 (v : Int) : Int := max (-32768) (min 32767 v)

/-- `inv(v)`: ones'-complement negation (R8). -/
def inv (v : Int) : Int := -v - 1

/-- A signed 16-bit sample from an integer (two's complement, R64). -/
def toSample (v : Int) : Sample := BitVec.ofInt 16 v

/-! ## The output buffer (R60, R63, R64) -/

/-- `OutRead(x)`: the signed 16-bit value `outbuf[x]` (R8, R63). -/
def outRead (c : Chip) (x : OutPos) : Int := (c.outbuf[x]).toInt

/-- `OUT_BYTE_ORDER` of R5: little-endian (R64). -/
def outLittleEndian : Bool := true

/-- The byte at `OUTBUF_BASE + 2 x + k` (R64): byte `k` of sample `x`. -/
def outByte (c : Chip) (x : OutPos) (k : Fin 2) : Byte :=
  let high := if outLittleEndian then k = 1 else k = 0
  if high then (c.outbuf[x]).extractLsb' 8 8 else (c.outbuf[x]).extractLsb' 0 8

/-! ## `RESET` (R38, R121) -/

/-- The resampling ratio of a rate (R126, R283): rates below `RATE_MIN` are replaced by it. -/
def ratioOf (rate : BitVec 32) : BitVec 27 :=
  BitVec.ofNat 27 ((max rate.toNat rateMin <<< rsmFrac) / nativeRate)

/-- Every element of the Chip State after `RESET(rate)` (R38). -/
def Chip.afterReset (rate : BitVec 32) : Chip :=
  { init := true, regs := [], ops := Vector.replicate 36 Operator.zero, timer := 0#14, tremPos := 0#8, vibPos := 0#3,
    noise := noiseReset, rateratio := ratioOf rate, samplecnt := 0#28, cur := zeroFrame, old := zeroFrame,
    outbuf := zeroFrame }

/-! ## The host's side -/

/-- Every operation but `RESET` requires `init` and is refused before the first `RESET` (R125). -/
def whenInit (s : State) (r : Host.Outcome State Fault Refusal) : Host.Outcome State Fault Refusal :=
  if s.chip.init then r else .refused .beforeReset

/-- The operation has completed: the Chip State it leaves and what it returns (R120). -/
def State.completed (s : State) (c : Chip) (r : Reply) : State := { s with chip := c, reply := r }

end Sys2Proof.Machine
end

