-- ==== Sys2Proof/Machine/Operands.lean ====
section
/-! DEFINITION. The decoded fields (R24, R25, R26) as views of the register file (R23): pure bit fields, never stored; and
the numbering that ties operators to channels (R28). -/

namespace Sys2Proof.Machine

/-! ## Numbering (R28) -/

/-- `op1(c)`: the first operator of channel `c`. -/
def op1 (c : ChanNum) : OpNum := Fin.ofNat 36 (18 * (c.val / 9) + 6 * (c.val % 9 / 3) + c.val % 9 % 3)

/-- `op2(c) = op1(c) + 3`: the second operator of channel `c`. -/
def op2 (c : ChanNum) : OpNum := Fin.ofNat 36 ((op1 c).val + 3)

/-- `ch(o)`: the channel that owns operator `o`. -/
def chOf (o : OpNum) : ChanNum := Fin.ofNat 18 (9 * (o.val / 18) + 3 * (o.val % 18 / 6) + o.val % 18 % 3)

/-- `o` is the first operator of its channel. -/
def isFirstOp (o : OpNum) : Bool := decide (o.val % 18 % 6 < 3)

/-- The channel three below: the first channel of a pair, from its second (R141, R143). -/
def chanBelow (c : ChanNum) : ChanNum := Fin.ofNat 18 (c.val - 3)

/-- The channel three above: the second channel of a pair, from its first (R141). -/
def chanAbove (c : ChanNum) : ChanNum := Fin.ofNat 18 (c.val + 3)

/-- The operator three below: the one that can modulate `o` (R249). -/
def opBelow (o : OpNum) : OpNum := Fin.ofNat 36 (o.val - 3)

/-! ## Raw bytes -/

/-- The byte at a register address. -/
def Memory.reg (m : Memory) (a : BitVec 9) : Byte := m.read a.toNat

/-- The byte of operator `o` in the register group at `base` (R26). -/
def Memory.opReg (m : Memory) (base : Nat) (o : OpNum) : Byte := m.reg (opAddr base o)

/-- The byte of channel `c` in the register group at `base` (R25). -/
def Memory.chanReg (m : Memory) (base : Nat) (c : ChanNum) : Byte := m.reg (chanAddr base c)

/-! ## Global fields (R24) -/

/-- `NEW`: OPL3-new mode enable. -/
def fNEW (m : Memory) : Bool := (m.reg 0x105#9).getLsbD 0

/-- `CONN4`: 4-op enable, one bit for each pair. -/
def fCONN4 (m : Memory) : BitVec 6 := (m.reg 0x104#9).extractLsb' 0 6

/-- `NTS`: note select. -/
def fNTS (m : Memory) : Bool := (m.reg 0x008#9).getLsbD 6

/-- `DAM`: tremolo depth. -/
def fDAM (m : Memory) : Bool := (m.reg 0x0BD#9).getLsbD 7

/-- `DVB`: vibrato depth. -/
def fDVB (m : Memory) : Bool := (m.reg 0x0BD#9).getLsbD 6

/-- `RYT`: rhythm mode enable (R260). -/
def fRYT (m : Memory) : Bool := (m.reg 0x0BD#9).getLsbD 5

/-- `BD`: bass drum key. -/
def fBD (m : Memory) : Bool := (m.reg 0x0BD#9).getLsbD 4

/-- `SD`: snare drum key. -/
def fSD (m : Memory) : Bool := (m.reg 0x0BD#9).getLsbD 3

/-- `TOM`: tom-tom key. -/
def fTOM (m : Memory) : Bool := (m.reg 0x0BD#9).getLsbD 2

/-- `TC`: top cymbal key. -/
def fTC (m : Memory) : Bool := (m.reg 0x0BD#9).getLsbD 1

/-- `HH`: hi-hat key. -/
def fHH (m : Memory) : Bool := (m.reg 0x0BD#9).getLsbD 0

/-! ## Channel fields (R25) -/

/-- `FNUM(c)`: the frequency number, from two registers (R103). -/
def fFNUM (m : Memory) (c : ChanNum) : BitVec 10 := (m.chanReg 0xB0 c).extractLsb' 0 2 ++ m.chanReg 0xA0 c

/-- `BLOCK(c)`. -/
def fBLOCK (m : Memory) (c : ChanNum) : BitVec 3 := (m.chanReg 0xB0 c).extractLsb' 2 3

/-- `KON(c)`: key-on flag. -/
def fKON (m : Memory) (c : ChanNum) : Bool := (m.chanReg 0xB0 c).getLsbD 5

/-- `FB(c)`: feedback level. -/
def fFB (m : Memory) (c : ChanNum) : BitVec 3 := (m.chanReg 0xC0 c).extractLsb' 1 3

/-- `CNT(c)`: connection selector. -/
def fCNT (m : Memory) (c : ChanNum) : Bool := (m.chanReg 0xC0 c).getLsbD 0

/-- `CHA(c)`, `CHB(c)`, `CHC(c)`, `CHD(c)`: the output-select flag for position `x`. -/
def fOUT (m : Memory) (c : ChanNum) (x : OutPos) : Bool := (m.chanReg 0xC0 c).getLsbD (4 + x.val)

/-! ## Operator fields (R26) -/

/-- `AM(o)`: tremolo enable. -/
def fAM (m : Memory) (o : OpNum) : Bool := (m.opReg 0x20 o).getLsbD 7

/-- `VIB(o)`: vibrato enable. -/
def fVIB (m : Memory) (o : OpNum) : Bool := (m.opReg 0x20 o).getLsbD 6

/-- `EGT(o)`: sustain flag. -/
def fEGT (m : Memory) (o : OpNum) : Bool := (m.opReg 0x20 o).getLsbD 5

/-- `KSR(o)`: key-scale-rate. -/
def fKSR (m : Memory) (o : OpNum) : Bool := (m.opReg 0x20 o).getLsbD 4

/-- `MULT(o)`: multiplier index. -/
def fMULT (m : Memory) (o : OpNum) : BitVec 4 := (m.opReg 0x20 o).extractLsb' 0 4

/-- `KSL(o)`: key-scale-level. -/
def fKSL (m : Memory) (o : OpNum) : BitVec 2 := (m.opReg 0x40 o).extractLsb' 6 2

/-- `TL(o)`: total level, an attenuation. -/
def fTL (m : Memory) (o : OpNum) : BitVec 6 := (m.opReg 0x40 o).extractLsb' 0 6

/-- `AR(o)`: attack rate. -/
def fAR (m : Memory) (o : OpNum) : BitVec 4 := (m.opReg 0x60 o).extractLsb' 4 4

/-- `DR(o)`: decay rate. -/
def fDR (m : Memory) (o : OpNum) : BitVec 4 := (m.opReg 0x60 o).extractLsb' 0 4

/-- `SL(o)`: sustain level. -/
def fSL (m : Memory) (o : OpNum) : BitVec 4 := (m.opReg 0x80 o).extractLsb' 4 4

/-- `RR(o)`: release rate. -/
def fRR (m : Memory) (o : OpNum) : BitVec 4 := (m.opReg 0x80 o).extractLsb' 0 4

/-- `WS(o)`: waveform select. -/
def fWS (m : Memory) (o : OpNum) : BitVec 3 := (m.opReg 0xE0 o).extractLsb' 0 3

/-- `SLX(o)` (R104): sustain level 15 means 31. -/
def slx (m : Memory) (o : OpNum) : Nat := if fSL m o = 15#4 then 31 else (fSL m o).toNat

/-- `STGT(o)` (R104): the sustain target in units of `level`. -/
def sustainTarget (m : Memory) (o : OpNum) : Nat := 511 - 16 * slx m o

end Sys2Proof.Machine
end

