-- ==== Sys2Proof/Machine/Flags.lean ====
section
/-! DEFINITION. The one-bit conditions of the core. It has no flags (R37); what stands nearest are views of the register
file: which 4-op pairs are in effect (R141), which channel controls an operator (R143), and the key signal (R144). -/

namespace Sys2Proof.Machine

/-- The candidate pair whose first channel is `c` (R141: `P1(0..5) = 0, 1, 2, 9, 10, 11`). -/
def pairOfFirst (c : ChanNum) : Option (Fin 6) :=
  if c.val < 3 then some (Fin.ofNat 6 c.val)
  else if 9 ≤ c.val ∧ c.val < 12 then some (Fin.ofNat 6 (c.val - 6))
  else none

/-- The candidate pair whose second channel is `c` (R141: `P2(n) = P1(n) + 3`). -/
def pairOfSecond (c : ChanNum) : Option (Fin 6) :=
  if c.val < 3 then none else pairOfFirst (chanBelow c)

/-- Pair `n` is in effect exactly when `NEW` = 1 and `CONN4[n]` = 1 (R141). -/
def pairInEffect (m : Memory) (n : Fin 6) : Bool := fNEW m && (fCONN4 m).getLsbD n.val

/-- `pair_first(c)` (R141). -/
def pairFirst (m : Memory) (c : ChanNum) : Bool :=
  match pairOfFirst c with
  | some n => pairInEffect m n
  | none => false

/-- `pair_second(c)` (R141). -/
def pairSecond (m : Memory) (c : ChanNum) : Bool :=
  match pairOfSecond c with
  | some n => pairInEffect m n
  | none => false

/-- `ctl(o)`: the control channel, which supplies `FNUM`, `BLOCK`, `KON` and `FB` (R143). -/
def ctl (m : Memory) (o : OpNum) : ChanNum := if pairSecond m (chOf o) then chanBelow (chOf o) else chOf o

/-- The instrument bit of an operator (R268); 0 for every operator that serves no instrument. -/
def instrumentBit (m : Memory) (o : OpNum) : Bool :=
  if o = 12 ∨ o = 15 then fBD m
  else if o = 13 then fHH m
  else if o = 14 then fTOM m
  else if o = 16 then fSD m
  else if o = 17 then fTC m
  else false

/-- `key_drum(o)` (R144). -/
def keyDrum (m : Memory) (o : OpNum) : Bool := fRYT m && instrumentBit m o

/-- `key(o)`: the key signal (R144). -/
def key (m : Memory) (o : OpNum) : Bool := fKON m (ctl m o) || keyDrum m o

end Sys2Proof.Machine
end

