-- ==== Sys2Proof/Machine/Waveform.lean ====
section
/-! DEFINITION. Attenuation, the logarithmic domain and the eight waveforms (R194 to R208). -/

namespace Sys2Proof.Machine

/-! ## Attenuation -/

/-- `KslAtt(o)` (R194). The subtraction stops at 0, as the rule's `max` says. -/
def kslAtt (m : Memory) (o : OpNum) : Nat :=
  let c := ctl m o
  ((kslRom ((fFNUM m c).extractLsb' 6 4) <<< 2) - ((8 - (fBLOCK m c).toNat) <<< 5)) >>> kslShift (fKSL m o)

/-- `TremAtt` (R195): the tremolo triangle, shallow or deep. -/
def tremAtt (m : Memory) (tremPos : BitVec 8) : Nat :=
  (if tremPos.toNat < 105 then tremPos.toNat else tremLen - tremPos.toNat) >>> (if fDAM m then 2 else 4)

/-- `Att(o)` (R196): the total attenuation, in units of `level`. -/
def attOf (m : Memory) (tremPos : BitVec 8) (o : OpNum) (op : Operator) : Nat :=
  (511 - op.level.toNat) + ((fTL m o).toNat <<< 2) + kslAtt m o + (if fAM m o then tremAtt m tremPos else 0)

/-! ## The logarithmic domain -/

/-- `Exp(l)` (R197). -/
def expOf (l : Nat) : Nat :=
  let k := min l 0x1FFF
  ((exprom (255 - k % 256) + 1024) <<< 1) >>> (k >>> 8)

/-- `q(p)` (R200): the quarter-wave lookup. -/
def quarter (p : BitVec 10) : Nat :=
  if p.getLsbD 8 then logsin (p.extractLsb' 0 8 ^^^ 0xFF#8) else logsin (p.extractLsb' 0 8)

/-! ## Waveforms -/

/-- `WsEff(o)` (R200): the waveform in use. -/
def wsEff (m : Memory) (o : OpNum) : BitVec 3 := if fNEW m then fWS m o else fWS m o &&& 3#3

/-- The log value of the double-frequency sine, for `p` in the first half-cycle (R205). -/
def doubleSine (p : BitVec 10) : Nat :=
  if p.getLsbD 9 then mute
  else if p.getLsbD 7 then logsin (((p ^^^ 0xFF#10) <<< 1).extractLsb' 0 8)
  else logsin ((p <<< 1).extractLsb' 0 8)

/-- The log value `l` and the sign `neg` of waveform `w` at position `p` (R201 to R208). -/
def waveLog (w : BitVec 3) (p : BitVec 10) : Nat × Bool :=
  if w = 0#3 then (quarter p, p.getLsbD 9)
  else if w = 1#3 then (if p.getLsbD 9 then mute else quarter p, false)
  else if w = 2#3 then (quarter p, false)
  else if w = 3#3 then (if p.getLsbD 8 then mute else logsin (p.extractLsb' 0 8), false)
  else if w = 4#3 then (doubleSine p, !p.getLsbD 9 && p.getLsbD 8)
  else if w = 5#3 then (doubleSine p, false)
  else if w = 6#3 then (0, p.getLsbD 9)
  else if p.getLsbD 9 then ((p.extractLsb' 0 9 ^^^ 0x1FF#9).toNat <<< 3, true)
  else (p.toNat <<< 3, false)

/-- `Wave(w, p, a)` (R200): amplitude through `Exp`, negative half by ones' complement. -/
def wave (w : BitVec 3) (p : BitVec 10) (a : Nat) : Int :=
  let lg := waveLog w p
  let v : Int := expOf (lg.1 + (a <<< 3))
  if lg.2 then inv v else v

end Sys2Proof.Machine
end

