-- ==== Sys2Proof/Machine/Composer.lean ====
section
/-! DEFINITION. The channel composer, the algorithm selector and the rhythm unit: the mode of a channel (R240), feedback
(R211), modulation inputs (R249), waveform positions (R209, R262 to R266) and channel samples (R241 to R248, R267). -/

namespace Sys2Proof.Machine

/-- The mode of a channel (R240). -/
inductive ChanMode where
  | fourOpFirst
  | fourOpSecond
  | rhythm
  | twoOp
  deriving DecidableEq, Repr

/-- `ChanMode(c)` (R240), found from the register file as it stands. -/
def chanMode (m : Memory) (c : ChanNum) : ChanMode :=
  if pairFirst m c then .fourOpFirst
  else if pairSecond m c then .fourOpSecond
  else if fRYT m = true ∧ (c = 6 ∨ c = 7 ∨ c = 8) then .rhythm
  else .twoOp

/-- `FbMod(o)` (R211): the operator's last two samples, scaled by the feedback level of its control channel. -/
def fbMod (m : Memory) (o : OpNum) (op : Operator) : Int :=
  let fb := (fFB m (ctl m o)).toNat
  if fb = 0 then 0 else (op.prevOut + op.out) >>> (9 - fb)

/-- `ModIn(o)` (R249), on the operators as pass 2 finds them. Operators 13, 16 and 17 in rhythm mode have none (R249). -/
def modIn (m : Memory) (ops : Vector Operator 36) (o : OpNum) : Int :=
  let c := chOf o
  let below := ops[opBelow o].out
  match chanMode m c with
  | .twoOp => if isFirstOp o then fbMod m o ops[o] else if fCNT m c then 0 else below
  | .fourOpFirst => if isFirstOp o then fbMod m o ops[o] else if fCNT m c then 0 else below
  | .fourOpSecond =>
    let k1 := fCNT m (chanBelow c)
    let k2 := fCNT m c
    if isFirstOp o then (if !k1 && k2 then 0 else below) else (if k1 && k2 then 0 else below)
  | .rhythm =>
    if c = 6 then (if isFirstOp o then fbMod m o ops[o] else if fCNT m c then 0 else below) else 0

/-- The 10-bit waveform position of a phase accumulator (R29): bits 18 to 9. -/
def phasePos (op : Operator) : BitVec 10 := op.phase.extractLsb' 9 10

/-- `rm_xor` (R262), from the positions of the hi-hat and the top-cymbal operators. -/
def rmXor (h t : BitVec 10) : Bool :=
  ((h.getLsbD 2 ^^ h.getLsbD 7) || (h.getLsbD 3 ^^ t.getLsbD 5)) || (t.getLsbD 3 ^^ t.getLsbD 5)

/-- The hi-hat position (R263). -/
def hiHatPos (rm nbit : Bool) : BitVec 10 :=
  BitVec.ofNat 10 (rm.toNat <<< 9 ||| (if rm ^^ nbit then 0xD0 else 0x34))

/-- The snare-drum position (R264). -/
def snarePos (h8 nbit : Bool) : BitVec 10 := BitVec.ofNat 10 (h8.toNat <<< 9 ||| (h8 ^^ nbit).toNat <<< 8)

/-- The top-cymbal position (R265). -/
def cymbalPos (rm : Bool) : BitVec 10 := BitVec.ofNat 10 (rm.toNat <<< 9 ||| 0x80)

/-- The ordinary waveform position (R209): the modulation input may be negative, the sum is taken modulo 1024. -/
def modulatedPos (m : Memory) (ops : Vector Operator 36) (o : OpNum) : BitVec 10 :=
  BitVec.ofInt 10 ((phasePos ops[o]).toNat + modIn m ops o)

/-- `PhaseIn(o)`: R209, but for operators 13, 16 and 17 in rhythm mode (R260 (b), R263 to R265). -/
def phaseIn (m : Memory) (noise : BitVec 23) (ops : Vector Operator 36) (o : OpNum) : BitVec 10 :=
  let h := phasePos ops[(13 : OpNum)]
  let t := phasePos ops[(17 : OpNum)]
  let nbit := noise.getLsbD 0
  if fRYT m then
    if o = 13 then hiHatPos (rmXor h t) nbit
    else if o = 16 then snarePos (h.getLsbD 8) nbit
    else if o = 17 then cymbalPos (rmXor h t)
    else modulatedPos m ops o
  else modulatedPos m ops o

/-- `OpSample(o)` (R210). -/
def opSample (m : Memory) (tremPos : BitVec 8) (noise : BitVec 23) (ops : Vector Operator 36) (o : OpNum) : Int :=
  wave (wsEff m o) (phaseIn m noise ops o) (attOf m tremPos o ops[o])

/-- `ChanOut(c)` (R241 to R248; R267 in rhythm mode). -/
def chanOut (m : Memory) (ops : Vector Operator 36) (c : ChanNum) : Int :=
  let s1 := ops[op1 c].out
  let s2 := ops[op2 c].out
  match chanMode m c with
  | .twoOp => if fCNT m c then s1 + s2 else s2
  | .fourOpFirst =>
    let s3 := ops[op1 (chanAbove c)].out
    let s4 := ops[op2 (chanAbove c)].out
    match fCNT m c, fCNT m (chanAbove c) with
    | false, false => s4
    | false, true => s2 + s4
    | true, false => s1 + s4
    | true, true => s1 + s3 + s4
  | .fourOpSecond => 0
  | .rhythm => if c = 6 then 2 * s2 else 2 * s1 + 2 * s2

end Sys2Proof.Machine
end

