-- ==== Sys2Proof/Machine/Envelope.lean ====
section
/-! DEFINITION. The envelope generator: key-scale value, effective rate, increment, and the five stages (R184 to R193). -/

namespace Sys2Proof.Machine

/-- `ksv(c)` (R184): the key-scale value of a channel, 0 to 15. -/
def ksv (m : Memory) (c : ChanNum) : Nat :=
  (fBLOCK m c).toNat <<< 1 ||| (if fNTS m then (fFNUM m c).getLsbD 8 else (fFNUM m c).getLsbD 9).toNat

/-- `Rate(o, r)` (R185): the effective rate, 0 to 60, of a 4-bit rate field. -/
def rateOf (m : Memory) (o : OpNum) (r : BitVec 4) : Nat :=
  if r = 0#4 then 0
  else
    let k := ksv m (ctl m o)
    min 60 (4 * r.toNat + (if fKSR m o then k else k >>> 2))

/-- `EgInc(rate)` (R186): the envelope increment of the tick that starts at `timer`. -/
def egInc (timer : BitVec 14) (rate : Nat) : Nat :=
  let rh := rate >>> 2
  let rl := rate &&& 3
  let sh := egIncSh rh
  let d := egIncDesc rh
  if 0 < sh then
    if timer.toNat % 2 ^ sh.toNat ≠ 0 then 0 else egIncStep d rl ((timer.toNat >>> sh.toNat) &&& 7)
  else egIncStep d rl (timer.toNat &&& 7) <<< (-sh).toNat

/-- The step of R193, also taken in a `Sustain` that is not held (R192): at level 0 the stage becomes `Off`, above it the
level falls. -/
def releaseStep (inc : Nat) (op : Operator) : Operator :=
  if op.level = 0#9 then { op with stage := .off }
  else { op with level := BitVec.ofNat 9 (op.level.toNat - inc) }

/-- The attack step (R190). -/
def attackStep (inc : Nat) (op : Operator) : Operator :=
  if op.level = 511#9 then { op with stage := .decay }
  else
    { op with
      level := BitVec.ofNat 9 (min 511 (op.level.toNat + (((512 - op.level.toNat) * inc + 7) >>> 3))) }

/-- The decay step toward `target` (R191). -/
def decayStep (target inc : Nat) (op : Operator) : Operator :=
  if op.level.toNat ≤ target then { op with stage := .sustain }
  else { op with level := BitVec.ofNat 9 (max target (op.level.toNat - inc)) }

/-- `EnvAdvance(o)` (R188): one of R189 to R193, by the stage found. -/
def envAdvance (m : Memory) (timer : BitVec 14) (o : OpNum) (op : Operator) : Operator :=
  match op.stage with
  | .off => op
  | .attack => attackStep (egInc timer (rateOf m o (fAR m o))) op
  | .decay => decayStep (sustainTarget m o) (egInc timer (rateOf m o (fDR m o))) op
  | .sustain => if fEGT m o then op else releaseStep (egInc timer (rateOf m o (fRR m o))) op
  | .release => releaseStep (egInc timer (rateOf m o (fRR m o))) op

end Sys2Proof.Machine
end

