-- ==== Sys2Proof/Machine/Phase.lean ====
section
/-! DEFINITION. The phase generator: vibrato, the phase step and the phase accumulator (R181 to R183). -/

namespace Sys2Proof.Machine

/-- The size of the vibrato offset before its sign (R181). -/
def vibOffset (m : Memory) (vibPos : BitVec 3) (f : BitVec 10) : Nat :=
  let r := (f.extractLsb' 7 3).toNat
  let r := if vibPos.extractLsb' 0 2 = 0#2 then 0 else if vibPos.getLsbD 0 then r >>> 1 else r
  if fDVB m then r else r >>> 1

/-- `FnumVib(o)` (R181): the frequency number with vibrato. -/
def fnumVib (m : Memory) (vibPos : BitVec 3) (o : OpNum) : Nat :=
  let f := fFNUM m (ctl m o)
  if fVIB m o then
    if vibPos.getLsbD 2 then f.toNat - vibOffset m vibPos f else f.toNat + vibOffset m vibPos f
  else f.toNat

/-- `PhaseInc(o)` (R182). -/
def phaseInc (m : Memory) (vibPos : BitVec 3) (o : OpNum) : Nat :=
  (((fnumVib m vibPos o <<< (fBLOCK m (ctl m o)).toNat) >>> 1) * multOf (fMULT m o)) >>> 1

/-- `PhaseAdvance(o)` (R183): the sum wraps modulo one full cycle. -/
def phaseAdvance (m : Memory) (vibPos : BitVec 3) (o : OpNum) (op : Operator) : Operator :=
  { op with phase := BitVec.ofNat 19 (op.phase.toNat + phaseInc m vibPos o) }

end Sys2Proof.Machine
end

