-- ==== Sys2Proof/Machine/Tick.lean ====
section
/-! DEFINITION. The mixer (R280 to R282), the global counters (R212 to R215), and the native tick that runs the whole
engine once (R180). -/

namespace Sys2Proof.Machine

/-! ## Mixer -/

/-- `PanEff(c)[x]` (R280): the output-select flags in OPL3 mode, outputs A and B outside it. -/
def panEff (m : Memory) (c : ChanNum) (x : OutPos) : Bool := if fNEW m then fOUT m c x else decide (x.val < 2)

/-- `mix[x]` (R282): the exact sum of the channels selected for output `x`. -/
def mix (m : Memory) (ops : Vector Operator 36) (x : OutPos) : Int :=
  chanOrder.foldl (fun acc c => if panEff m c x then acc + chanOut m ops c else acc) 0

/-- The native frame of a tick (R282): each mix clipped once. -/
def nativeFrame (m : Memory) (ops : Vector Operator 36) : Frame :=
  #v[toSample (clip16 (mix m ops 0)), toSample (clip16 (mix m ops 1)),
     toSample (clip16 (mix m ops 2)), toSample (clip16 (mix m ops 3))]

/-! ## Global counters -/

/-- `NoiseNext(n)` (R215). -/
def noiseNext (n : BitVec 23) : BitVec 23 :=
  (n >>> 1) ||| (if n.getLsbD 14 ^^ n.getLsbD 0 then 0x400000#23 else 0#23)

/-- R212: the timer counts modulo 16384. -/
def timerNext (timer : BitVec 14) : BitVec 14 := timer + 1#14

/-- R213: the tremolo position steps at the end of every 64th tick. -/
def tremNext (timer : BitVec 14) (tremPos : BitVec 8) : BitVec 8 :=
  if timer.toNat % tremDiv = tremDiv - 1 then BitVec.ofNat 8 ((tremPos.toNat + 1) % tremLen) else tremPos

/-- R214: the vibrato position steps at the end of every 1024th tick. -/
def vibNext (timer : BitVec 14) (vibPos : BitVec 3) : BitVec 3 :=
  if timer.toNat % vibDiv = vibDiv - 1 then vibPos + 1#3 else vibPos

/-! ## The tick -/

/-- Pass 1 of R180: the phase and envelope of every operator. -/
def pass1 (c : Chip) : Vector Operator 36 :=
  mapOps (fun o op => envAdvance c.regs c.timer o (phaseAdvance c.regs c.vibPos o op)) c.ops

/-- One operator's turn in pass 2 of R180. -/
def sampleOp (m : Memory) (tremPos : BitVec 8) (noise : BitVec 23) (ops : Vector Operator 36) (o : OpNum) :
    Vector Operator 36 :=
  ops.set o { ops[o] with prevOut := ops[o].out, out := opSample m tremPos noise ops o }

/-- Pass 2 of R180: the samples, in increasing operator number. -/
def pass2 (c : Chip) (ops : Vector Operator 36) : Vector Operator 36 :=
  opOrder.foldl (sampleOp c.regs c.tremPos c.noise) ops

/-- `NativeTick()` (R180): the chip after it, and the clipped native frame. -/
def nativeTick (c : Chip) : Chip × Frame :=
  let ops := pass2 c (pass1 c)
  ({ c with
      ops := ops
      noise := noiseNext c.noise
      tremPos := tremNext c.timer c.tremPos
      vibPos := vibNext c.timer c.vibPos
      timer := timerNext c.timer },
   nativeFrame c.regs ops)

end Sys2Proof.Machine
end

