-- ==== Sys2Proof/Machine/HostOps.lean ====
section
/-! DEFINITION. The operations that are no `WRITE`: `RESET` (R121), `GEN` with its resampler (R123, R284 to R286), and
`GETBUF` (R124). -/

namespace Sys2Proof.Machine

/-! ## The resampler -/

/-- One turn of the loop of R284: a tick, and the position moves back by its length. -/
def resampleTick (c : Chip) : Chip :=
  let t := nativeTick c
  { t.1 with old := c.cur, cur := t.2, samplecnt := c.samplecnt - c.rateratio.setWidth 28 }

/-- `while samplecnt >= rateratio` of R284, at most `n` turns. -/
def tickLoop : Nat → Chip → Chip
  | 0, c => c
  | n + 1, c => if c.rateratio.toNat ≤ c.samplecnt.toNat then tickLoop n (resampleTick c) else c

/-- The interpolation of R285, for one output. -/
def interpolate (c : Chip) (x : OutPos) : Sample :=
  toSample (Int.tdiv
    ((c.old[x]).toInt * ((c.rateratio.toNat : Int) - c.samplecnt.toNat) + (c.cur[x]).toInt * c.samplecnt.toNat)
    c.rateratio.toNat)

/-- The frame that the interpolation gives (R285). -/
def interpolated (c : Chip) : Frame := #v[interpolate c 0, interpolate c 1, interpolate c 2, interpolate c 3]

/-- `GEN` on the Chip State (R123): the tick loop (each turn takes at least 1 from `samplecnt`, so `samplecnt` turns are
enough), the interpolation, the advance by one output frame (R286). -/
def chipGen (c : Chip) : Chip :=
  let d := tickLoop c.samplecnt.toNat c
  { d with outbuf := interpolated d, samplecnt := d.samplecnt + BitVec.ofNat 28 (1 <<< rsmFrac) }

/-! ## Meanings -/

/-- `RESET rate` (R121): allowed in every state, and nothing of the state before is left. -/
def execReset (rate : BitVec 32) (s : State) : Host.Outcome State Fault Refusal :=
  .next (s.completed (Chip.afterReset rate) .void)

/-- `GEN` (R123): returns the frame it leaves in `outbuf`. With `rateratio` = 0, which no run reaches, the loop of R284 does
not end (log entry 5). -/
def execGen (s : State) : Host.Outcome State Fault Refusal :=
  whenInit s
    (if s.chip.rateratio = 0#27 then .fault .tickLoopEndless
     else .next (s.completed (chipGen s.chip) (.frame (chipGen s.chip).outbuf)))

/-- `GETBUF` (R124): the constant `OUTBUF_BASE`; it changes nothing of the Chip State. -/
def execGetbuf (s : State) : Host.Outcome State Fault Refusal :=
  whenInit s (.next (s.completed s.chip (.address Config.outbufBase)))

end Sys2Proof.Machine
end

