-- ==== Sys2Proof/Machine/Keys.lean ====
section
/-! DEFINITION. The register write procedure and the key actions it performs (R140, R145, R146). -/

namespace Sys2Proof.Machine

/-- `KeyOn(o)` (R145), on the register file after the store. -/
def keyOn (m : Memory) (o : OpNum) (op : Operator) : Operator :=
  if rateOf m o (fAR m o) >>> 2 = 15 then { op with phase := 0#19, stage := .decay, level := 511#9 }
  else { op with phase := 0#19, stage := .attack }

/-- `KeyOff(o)` (R146). -/
def keyOff (op : Operator) : Operator := { op with stage := .release }

/-- The key edge of operator `o` between the file before the store (`m0`) and after it (`m1`) (R140). -/
def keyEdge (m0 m1 : Memory) (o : OpNum) (op : Operator) : Operator :=
  match key m0 o, key m1 o with
  | false, true => keyOn m1 o op
  | true, false => keyOff op
  | _, _ => op

/-- `RegWrite(a, v)` (R140): the store, then the key edges of all 36 operators. -/
def regWrite (c : Chip) (a : BitVec 9) (v : Byte) : Chip :=
  let m1 := c.regs.write a.toNat v
  { c with regs := m1, ops := mapOps (keyEdge c.regs m1) c.ops }

/-- `WRITE addr, value` (R122): out of range is ignored, anything else is `RegWrite`. -/
def chipWrite (c : Chip) (addr : BitVec 16) (v : Byte) : Chip :=
  if addrMax < addr.toNat then c else regWrite c (addr.extractLsb' 0 9) v

/-- `WRITE addr, value` from the host: it requires `init` (R125) and returns nothing (R80). -/
def hostWrite (addr : BitVec 16) (v : Byte) (s : State) : Host.Outcome State Fault Refusal :=
  whenInit s (.next (s.completed (chipWrite s.chip addr v) .void))

end Sys2Proof.Machine
end

