-- ==== Sys2Proof/Machine/WriteChannel.lean ====
section
/-! DEFINITION. `WRITE` at the channel registers (R160 to R162). -/

namespace Sys2Proof.Machine

/-- `WRITE B + 0xA0 + j, v` (R160). -/
def execWriteChA0 (c : ChanNum) (v : Byte) (s : State) : Host.Outcome State Fault Refusal :=
  hostWrite (wideAddr (chanAddr 0xA0 c)) v s

/-- `WRITE B + 0xB0 + j, v` (R161), with the key edges of the operators the channel controls. -/
def execWriteChB0 (c : ChanNum) (v : Byte) (s : State) : Host.Outcome State Fault Refusal :=
  hostWrite (wideAddr (chanAddr 0xB0 c)) v s

/-- `WRITE B + 0xC0 + j, v` (R162). -/
def execWriteChC0 (c : ChanNum) (v : Byte) (s : State) : Host.Outcome State Fault Refusal :=
  hostWrite (wideAddr (chanAddr 0xC0 c)) v s

end Sys2Proof.Machine
end

