-- ==== Sys2Proof/Machine/WriteGlobal.lean ====
section
/-! DEFINITION. `WRITE` at the named single addresses of R86 (R148 to R154, R163). -/

namespace Sys2Proof.Machine

/-- `WRITE 0x001, v` (R148): stored, no function. -/
def execWriteReg01 (v : Byte) (s : State) : Host.Outcome State Fault Refusal := hostWrite 0x001#16 v s

/-- `WRITE 0x002, v` (R149): stored, no function. -/
def execWriteReg02 (v : Byte) (s : State) : Host.Outcome State Fault Refusal := hostWrite 0x002#16 v s

/-- `WRITE 0x003, v` (R150): stored, no function. -/
def execWriteReg03 (v : Byte) (s : State) : Host.Outcome State Fault Refusal := hostWrite 0x003#16 v s

/-- `WRITE 0x004, v` (R151): stored, no function. -/
def execWriteReg04 (v : Byte) (s : State) : Host.Outcome State Fault Refusal := hostWrite 0x004#16 v s

/-- `WRITE 0x008, v` (R152): note select. -/
def execWriteNts (v : Byte) (s : State) : Host.Outcome State Fault Refusal := hostWrite 0x008#16 v s

/-- `WRITE 0x104, v` (R153): which pairs are enabled, with the key edges of a pair that comes or goes. -/
def execWriteConn4 (v : Byte) (s : State) : Host.Outcome State Fault Refusal := hostWrite 0x104#16 v s

/-- `WRITE 0x105, v` (R154): OPL3-new mode, with the key edges of a pair that comes or goes. -/
def execWriteNew (v : Byte) (s : State) : Host.Outcome State Fault Refusal := hostWrite 0x105#16 v s

/-- `WRITE 0x0BD, v` (R163): LFO depths, rhythm enable, percussion keys and their edges. -/
def execWriteBd (v : Byte) (s : State) : Host.Outcome State Fault Refusal := hostWrite 0x0BD#16 v s

end Sys2Proof.Machine
end

