-- ==== Sys2Proof/Machine/WriteOperator.lean ====
section
/-! DEFINITION. `WRITE` at the operator registers (R155 to R159). -/

namespace Sys2Proof.Machine

/-- `WRITE B + 0x20 + A(o), v` (R155). -/
def execWriteOp20 (o : OpNum) (v : Byte) (s : State) : Host.Outcome State Fault Refusal :=
  hostWrite (wideAddr (opAddr 0x20 o)) v s

/-- `WRITE B + 0x40 + A(o), v` (R156). -/
def execWriteOp40 (o : OpNum) (v : Byte) (s : State) : Host.Outcome State Fault Refusal :=
  hostWrite (wideAddr (opAddr 0x40 o)) v s

/-- `WRITE B + 0x60 + A(o), v` (R157). -/
def execWriteOp60 (o : OpNum) (v : Byte) (s : State) : Host.Outcome State Fault Refusal :=
  hostWrite (wideAddr (opAddr 0x60 o)) v s

/-- `WRITE B + 0x80 + A(o), v` (R158). -/
def execWriteOp80 (o : OpNum) (v : Byte) (s : State) : Host.Outcome State Fault Refusal :=
  hostWrite (wideAddr (opAddr 0x80 o)) v s

/-- `WRITE B + 0xE0 + A(o), v` (R159). -/
def execWriteOpE0 (o : OpNum) (v : Byte) (s : State) : Host.Outcome State Fault Refusal :=
  hostWrite (wideAddr (opAddr 0xE0 o)) v s

end Sys2Proof.Machine
end

