-- ==== Sys2Proof/Machine/WriteOther.lean ====
section
/-! DEFINITION. `WRITE` at a reserved address (R164) and out of range (R165). -/

namespace Sys2Proof.Machine

/-- `WRITE a, v` at a reserved address (R164): stored, no function. -/
def execWriteRsvd (a : BitVec 9) (v : Byte) (s : State) : Host.Outcome State Fault Refusal :=
  hostWrite (wideAddr a) v s

/-- `WRITE addr, v` above 511 (R165): ignored. -/
def execWriteOor (addr : BitVec 16) (v : Byte) (s : State) : Host.Outcome State Fault Refusal := hostWrite addr v s

end Sys2Proof.Machine
end

