-- ==== Sys2Proof/Machine/Dispatch.lean ====
section
/-! DEFINITION. The one dispatch: each constructor of `Instr` to its meaning. -/

namespace Sys2Proof.Machine

def exec (i : Instr) (s : State) : Host.Outcome State Fault Refusal :=
  match i with
  | .reset rate => Sys2Proof.Machine.execReset rate s
  | .gen => Sys2Proof.Machine.execGen s
  | .getbuf => Sys2Proof.Machine.execGetbuf s
  | .writeRsvd a v => Sys2Proof.Machine.execWriteRsvd a v s
  | .writeReg01 v => Sys2Proof.Machine.execWriteReg01 v s
  | .writeReg02 v => Sys2Proof.Machine.execWriteReg02 v s
  | .writeReg03 v => Sys2Proof.Machine.execWriteReg03 v s
  | .writeReg04 v => Sys2Proof.Machine.execWriteReg04 v s
  | .writeNts v => Sys2Proof.Machine.execWriteNts v s
  | .writeConn4 v => Sys2Proof.Machine.execWriteConn4 v s
  | .writeNew v => Sys2Proof.Machine.execWriteNew v s
  | .writeOp20 o v => Sys2Proof.Machine.execWriteOp20 o v s
  | .writeOp40 o v => Sys2Proof.Machine.execWriteOp40 o v s
  | .writeOp60 o v => Sys2Proof.Machine.execWriteOp60 o v s
  | .writeOp80 o v => Sys2Proof.Machine.execWriteOp80 o v s
  | .writeOpE0 o v => Sys2Proof.Machine.execWriteOpE0 o v s
  | .writeChA0 c v => Sys2Proof.Machine.execWriteChA0 c v s
  | .writeChB0 c v => Sys2Proof.Machine.execWriteChB0 c v s
  | .writeChC0 c v => Sys2Proof.Machine.execWriteChC0 c v s
  | .writeBd v => Sys2Proof.Machine.execWriteBd v s
  | .writeOor addr v => Sys2Proof.Machine.execWriteOor addr v s

end Sys2Proof.Machine
end

