-- ==== Sys2Proof/Machine/Step.lean ====
section
/-! DEFINITION. One step of the model: the host issues its next operation and the core executes it to completion (R6, R120);
with none pending nothing moves (R6, R307). -/

namespace Sys2Proof.Machine

/-- One step. -/
def step (s : State) : Host.Outcome State Fault Refusal :=
  match s.pending with
  | [] => .next s
  | w :: rest => exec (decodeWord w) { s with pending := rest }

/-- `s` with the operation of an opcode-table word as the next one pending. A number that is no 34-bit word is no operation
(R80), and places nothing. -/
def State.withFetchWord (s : State) (nbits w : Nat) : State :=
  if tableWord nbits w < 2 ^ 34 then { s with pending := BitVec.ofNat 34 (tableWord nbits w) :: s.pending } else s

end Sys2Proof.Machine
end

