-- ==== Sys2Proof/Safety.lean ====
section
/-! DEFINITION. What counts as a safe state of the core, and the terms the statements use: the invariant of R216 and R35, what
a key edge does to an operator, two register files that no rule can tell apart, and the modulation input in terms of the
operators before and after a tick. -/

namespace Sys2Proof.Machine

/-! ## The invariant -/

/-- What R216 and R189 say of every operator in a reachable state. -/
abbrev Operator.Inv (op : Operator) : Prop :=
  (-4085 ≤ op.out ∧ op.out ≤ 4084) ∧ (-4085 ≤ op.prevOut ∧ op.prevOut ≤ 4084) ∧ (op.stage = .off → op.level = 0#9)

/-- What R33 to R35, R216 and R286 say of every reachable Chip State, with the canonical form of the register file. -/
abbrev Chip.Inv (c : Chip) : Prop :=
  c.regs.wf = true ∧ c.noise ≠ 0#23 ∧ c.tremPos.toNat < 210 ∧ 1 ≤ c.rateratio.toNat ∧
    c.samplecnt.toNat < c.rateratio.toNat + 1024 ∧ ∀ o : OpNum, c.ops[o].Inv

/-- Before the first `RESET` no element has a value (R21), so nothing is asked of it. -/
abbrev State.Inv (s : State) : Prop := s.chip.init = true → s.chip.Inv

/-! ## Writes -/

/-- `s` after a `WRITE` that only stores a byte: no key edge, nothing returned. -/
def State.stored (s : State) (a : BitVec 9) (v : Byte) : State :=
  { s with chip := { s.chip with regs := s.chip.regs.write a.toNat v }, reply := .void }

/-- A `WRITE` at a valid address as the host sees the register space (R66): the location holds the byte, every other holds
what it held. -/
def Memory.HoldsAt (m1 : Memory) (a : BitVec 9) (v : Byte) (m0 : Memory) : Prop :=
  m1.reg a = v ∧ ∀ b : BitVec 9, b ≠ a → m1.reg b = m0.reg b

/-- An operator after a key edge from `k0` to `k1` (R140, R145, R146), `rate` being its effective attack rate after the
store. -/
def afterEdge (k0 k1 : Bool) (rate : Nat) (op : Operator) : Operator :=
  if k0 = false ∧ k1 = true then
    { op with
      phase := 0#19
      stage := if rate / 4 = 15 then .decay else .attack
      level := if rate / 4 = 15 then 511#9 else op.level }
  else if k0 = true ∧ k1 = false then { op with stage := .release }
  else op

/-- The percussion key that the byte `v` at 0x0BD gives operator `o` (R144, R163). -/
def drumKeyOf (v : Byte) (o : OpNum) : Bool :=
  v.getLsbD 5 &&
    (if o = 12 ∨ o = 15 then v.getLsbD 4
     else if o = 13 then v.getLsbD 0
     else if o = 14 then v.getLsbD 2
     else if o = 16 then v.getLsbD 3
     else if o = 17 then v.getLsbD 1
     else false)

/-! ## Register files that no rule can tell apart -/

/-- An address that some rule reads: in the map R86, and neither reserved nor one of `REG01` to `REG04` (R101, R102). -/
def hasFunction (a : BitVec 9) : Bool := !isReservedAddr a && !decide (1 ≤ a.toNat ∧ a.toNat ≤ 4)

/-- The two files hold the same byte wherever a rule reads one. -/
def Memory.SameFunction (m m' : Memory) : Prop := ∀ a : BitVec 9, hasFunction a = true → m.reg a = m'.reg a

/-- Every decoded field of R24, R25 and R26 has the same value in both files. -/
def Memory.SameFields (m m' : Memory) : Prop :=
  (fNEW m = fNEW m' ∧ fCONN4 m = fCONN4 m' ∧ fNTS m = fNTS m' ∧ fDAM m = fDAM m' ∧ fDVB m = fDVB m' ∧ fRYT m = fRYT m' ∧
    fBD m = fBD m' ∧ fSD m = fSD m' ∧ fTOM m = fTOM m' ∧ fTC m = fTC m' ∧ fHH m = fHH m') ∧
  (∀ c : ChanNum, fFNUM m c = fFNUM m' c ∧ fBLOCK m c = fBLOCK m' c ∧ fKON m c = fKON m' c ∧ fFB m c = fFB m' c ∧
    fCNT m c = fCNT m' c ∧ ∀ x : OutPos, fOUT m c x = fOUT m' c x) ∧
  ∀ o : OpNum, fAM m o = fAM m' o ∧ fVIB m o = fVIB m' o ∧ fEGT m o = fEGT m' o ∧ fKSR m o = fKSR m' o ∧
    fMULT m o = fMULT m' o ∧ fKSL m o = fKSL m' o ∧ fTL m o = fTL m' o ∧ fAR m o = fAR m' o ∧ fDR m o = fDR m' o ∧
    fSL m o = fSL m' o ∧ fRR m o = fRR m' o ∧ fWS m o = fWS m' o

/-- Two Chip States equal but for register bytes that no rule reads; both files in canonical form. -/
def Chip.SameButUnread (c d : Chip) : Prop :=
  c.regs.wf = true ∧ d.regs.wf = true ∧ c.regs.SameFunction d.regs ∧ d = { c with regs := d.regs }

/-- Two states equal but for register bytes that no rule reads. -/
def State.SameButUnread (s t : State) : Prop :=
  s.chip.SameButUnread t.chip ∧ s.pending = t.pending ∧ s.reply = t.reply

/-- Two outcomes of one kind: next states equal but for unread bytes, or the same stop. -/
def outcomesAgree (x y : Host.Outcome State Fault Refusal) : Prop :=
  match x, y with
  | .next s, .next t => s.SameButUnread t
  | .fault a, .fault b => a = b
  | .refused a, .refused b => a = b
  | _, _ => False

/-! ## A tick without its order of evaluation -/

/-- The Chip State after `n` native ticks with no `WRITE` between (R180). -/
def ticks (n : Nat) (c : Chip) : Chip := (fun d => (nativeTick d).1)^[n] c

/-- `ModIn(o)` of a tick (R249) from the operators `before` the tick, whose samples the feedback blends (R211), and `after`
it, whose samples modulate (R180). -/
def settledModIn (m : Memory) (before after : Vector Operator 36) (o : OpNum) : Int :=
  let c := chOf o
  let below := after[opBelow o].out
  let serial := if isFirstOp o then fbMod m o before[o] else if fCNT m c then 0 else below
  match chanMode m c with
  | .twoOp => serial
  | .fourOpFirst => serial
  | .fourOpSecond =>
    if isFirstOp o then (if !fCNT m (chanBelow c) && fCNT m c then 0 else below)
    else if fCNT m (chanBelow c) && fCNT m c then 0 else below
  | .rhythm => if c = 6 then serial else 0

end Sys2Proof.Machine
end

