-- ==== Sys2Proof/Certificates/Slice0/Obligations.lean ====
section
/-! DEFINITION. The statements for the provers, rule by rule of the spec: encoding, the host operations, every `WRITE`, the
native tick, and the properties of the whole machine. -/

open Sys2Proof Sys2Proof.Machine

/-! ## Encoding and the step -/

/-- R6, R69, R307: with no operation pending nothing moves; otherwise the step executes the next pending operation, which is
no longer pending. An opcode-table word placed by `withFetchWord` is the one the next step executes. The queue of pending
operations is the model's choice (log entry 1). -/
def Obligations.StepExecutesThePendingOperation : Prop :=
  (∀ s : State, s.pending = [] → step s = .next s) ∧
  (∀ (s : State) (w : HostWord) (rest : List HostWord), s.pending = w :: rest →
    step s = exec (decodeWord w) { s with pending := rest }) ∧
  ∀ (s : State) (nbits w : Nat) (i : Instr), decodeTableWord nbits w = some i → step (s.withFetchWord nbits w) = exec i s

/-- The host command words of the spec's vectors V-ENC (R80 to R84) decode to the operations they are written for. -/
def Obligations.SampleWordsDecode : Prop :=
  decodeWord 0x00000AC44#34 = .reset 44100#32 ∧ decodeWord 0x0FFFFFFFF#34 = .reset 4294967295#32 ∧
  decodeWord 0x10000B032#34 = .writeChB0 0 0x32#8 ∧ decodeWord 0x1AB00B032#34 = .writeChB0 0 0x32#8 ∧
  decodeWord 0x100010501#34 = .writeNew 0x01#8 ∧ decodeWord 0x10001FFAA#34 = .writeRsvd 0x1FF#9 0xAA#8 ∧
  decodeWord 0x10002B020#34 = .writeOor 0x2B0#16 0x20#8 ∧ decodeWord 0x100FFFFFF#34 = .writeOor 0xFFFF#16 0xFF#8 ∧
  decodeWord 0x2DEADBEEF#34 = .gen ∧ decodeWord 0x3FFFFFFFF#34 = .getbuf

/-- R80 to R88: decoding the canonical word of any well-formed operation, with every operand at every value, gives the
operation back. -/
def Obligations.DecodeOfEncode : Prop :=
  ∀ i : Instr, i.wf = true → decodeWord (encode i) = i ∧ decode (encode i).toNat = .ok i

/-- R81 to R84: where the operands stand in the word of each operation, which bits are ignored, and that they are emitted as
zero. -/
def Obligations.FieldsOfAHostWord : Prop :=
  (∀ rate : BitVec 32, decodeWord (hostWord 0#2 rate) = .reset rate ∧ encode (.reset rate) = hostWord 0#2 rate) ∧
  (∀ (x : Byte) (addr : BitVec 16) (v : Byte), decodeWord (hostWord 1#2 (x ++ addr ++ v)) = decodeWrite addr v ∧
    encode (decodeWrite addr v) = hostWord 1#2 (0#8 ++ addr ++ v)) ∧
  (∀ p : BitVec 32, decodeWord (hostWord 2#2 p) = .gen ∧ decodeWord (hostWord 3#2 p) = .getbuf) ∧
  encode .gen = 0x200000000#34 ∧ encode .getbuf = 0x300000000#34

/-- R81, R85, R86: every word decodes to a well-formed operation, and a `WRITE` at a valid address is the reserved one
exactly at the reserved addresses. -/
def Obligations.DecodedOperationsAreWellFormed : Prop :=
  (∀ w : HostWord, (decodeWord w).wf = true) ∧
  ∀ (a : BitVec 9) (v : Byte), decodeRegister a v = .writeRsvd a v ↔ isReservedAddr a = true

/-- R27, R28: the addresses of every operator and channel, and their numbering: every channel owns exactly two operators, the
second three above the first, and every operator belongs to exactly one channel. -/
def Obligations.OperatorsBelongToOneChannel : Prop :=
  (∀ o : OpNum, ∀ base ∈ [0x20, 0x40, 0x60, 0x80, 0xE0], (opAddr base o).toNat = 0x100 * (o.val / 18) + base +
    [0x00, 0x01, 0x02, 0x03, 0x04, 0x05, 0x08, 0x09, 0x0A, 0x0B, 0x0C, 0x0D, 0x10, 0x11, 0x12, 0x13, 0x14, 0x15].getD
      (o.val % 18) 0) ∧
  (∀ c : ChanNum, ∀ base ∈ [0xA0, 0xB0, 0xC0], (chanAddr base c).toNat = 0x100 * (c.val / 9) + base + c.val % 9) ∧
  (∀ c : ChanNum, (op1 c).val = 18 * (c.val / 9) + [0, 1, 2, 6, 7, 8, 12, 13, 14].getD (c.val % 9) 0 ∧
    (op2 c).val = (op1 c).val + 3 ∧ chOf (op1 c) = c ∧ chOf (op2 c) = c ∧ isFirstOp (op1 c) = true ∧
    isFirstOp (op2 c) = false) ∧
  ∀ o : OpNum, o = if isFirstOp o then op1 (chOf o) else op2 (chOf o)

/-! ## The operations that are no `WRITE` -/

/-- R121, R38, R126: `RESET rate` completes in every state and leaves every element of the Chip State at its reset value,
whatever the state before; the ratio is that of the clamped rate and at least 1. -/
def Obligations.ResetLeavesEveryElementAtItsValue : Prop :=
  ∀ (rate : BitVec 32) (s : State), ∃ t : State, exec (.reset rate) s = .next t ∧
    t.chip.init = true ∧ (∀ a : BitVec 9, t.chip.regs.reg a = 0#8) ∧
    (∀ o : OpNum, t.chip.ops[o].phase = 0#19 ∧ t.chip.ops[o].stage = .off ∧ t.chip.ops[o].level = 0#9 ∧
      t.chip.ops[o].out = 0 ∧ t.chip.ops[o].prevOut = 0) ∧
    t.chip.timer = 0#14 ∧ t.chip.tremPos = 0#8 ∧ t.chip.vibPos = 0#3 ∧ t.chip.noise = 1#23 ∧ t.chip.samplecnt = 0#28 ∧
    (∀ x : OutPos, t.chip.cur[x] = 0#16 ∧ t.chip.old[x] = 0#16 ∧ t.chip.outbuf[x] = 0#16) ∧
    t.chip.rateratio.toNat = (max rate.toNat 49 * 1024) / 49716 ∧ 1 ≤ t.chip.rateratio.toNat ∧
    t.reply = .void ∧ t.pending = s.pending

/-- R125: while `init` is false every operation but `RESET` is refused. -/
def Obligations.RefusedBeforeTheFirstReset : Prop :=
  ∀ (i : Instr) (s : State), s.chip.init = false → (∀ rate, i ≠ .reset rate) → exec i s = .refused .beforeReset

/-- R284, R286, with the tick count of R287: one turn of the loop keeps the frame of the tick before, takes that of a native
tick, and moves the position back by the ratio; `GEN` is `samplecnt / rateratio` such turns, after which the position is below
the ratio; then the interpolation, and the position moves on by one output frame. -/
def Obligations.GenIsTheResamplerLoop : Prop :=
  (∀ c : Chip, c.rateratio.toNat ≤ c.samplecnt.toNat →
    resampleTick c = { (nativeTick c).1 with
      old := c.cur
      cur := (nativeTick c).2
      samplecnt := BitVec.ofNat 28 (c.samplecnt.toNat - c.rateratio.toNat) }) ∧
  ∀ s : State, s.chip.init = true → s.chip.rateratio ≠ 0#27 →
    let n := s.chip.samplecnt.toNat / s.chip.rateratio.toNat
    let d := resampleTick^[n] s.chip
    exec .gen s = .next { s with
      chip := { d with
        outbuf := interpolated d
        samplecnt := BitVec.ofNat 28 (s.chip.samplecnt.toNat % s.chip.rateratio.toNat + 1024) }
      reply := .frame (interpolated d) } ∧
    d.samplecnt.toNat = s.chip.samplecnt.toNat % s.chip.rateratio.toNat ∧ d.rateratio = s.chip.rateratio

/-- R285: each sample of the frame `GEN` returns is the linear interpolation between the last two native frames, truncated
toward zero, and lies between them. -/
def Obligations.GenInterpolatesBetweenTwoFrames : Prop :=
  ∀ s : State, s.chip.init = true → s.chip.rateratio ≠ 0#27 →
    let q : Int := (s.chip.samplecnt.toNat % s.chip.rateratio.toNat : Nat)
    let r : Int := s.chip.rateratio.toNat
    ∃ t : State, exec .gen s = .next t ∧ t.reply = .frame t.chip.outbuf ∧
      ∀ x : OutPos,
        outRead t.chip x = Int.tdiv ((t.chip.old[x]).toInt * (r - q) + (t.chip.cur[x]).toInt * q) r ∧
        min (t.chip.old[x]).toInt (t.chip.cur[x]).toInt ≤ outRead t.chip x ∧
        outRead t.chip x ≤ max (t.chip.old[x]).toInt (t.chip.cur[x]).toInt

/-- R69, R123: `GEN` writes neither the register file nor the ratio nor `init`; the timer counts the ticks it ran. -/
def Obligations.GenLeavesTheRegisterFile : Prop :=
  ∀ s : State, s.chip.init = true → s.chip.rateratio ≠ 0#27 →
    ∃ t : State, exec .gen s = .next t ∧ t.chip.init = true ∧ t.chip.regs = s.chip.regs ∧
      t.chip.rateratio = s.chip.rateratio ∧ t.pending = s.pending ∧
      t.chip.timer.toNat = (s.chip.timer.toNat + s.chip.samplecnt.toNat / s.chip.rateratio.toNat) % 16384

/-- R124: `GETBUF` returns the constant `OUTBUF_BASE`, a multiple of 2, and changes nothing of the Chip State. -/
def Obligations.GetbufReturnsTheBase : Prop :=
  (∀ s : State, s.chip.init = true → exec .getbuf s = .next { s with reply := .address Config.outbufBase }) ∧
  Config.outbufBase % 2 = 0

/-- R63, R64: the two bytes of each output sample, the less significant at the lower address. -/
def Obligations.OutputBytesAreLittleEndian : Prop :=
  ∀ (c : Chip) (x : OutPos), outByte c x 1 ++ outByte c x 0 = c.outbuf[x] ∧
    outRead c x = (outByte c x 1).toInt * 256 + (outByte c x 0).toNat

/-! ## `WRITE` -/

/-- R165: a `WRITE` above 511 changes no element of the Chip State; the test is on the whole 16-bit address. -/
def Obligations.OutOfRangeWriteIsIgnored : Prop :=
  ∀ (addr : BitVec 16) (v : Byte) (s : State), s.chip.init = true → 511 < addr.toNat →
    decodeWrite addr v = .writeOor addr v ∧ exec (.writeOor addr v) s = .next { s with reply := .void }

/-- R122, R140, R145, R146: whatever operation a `WRITE` at a valid address decodes to, it stores the byte and performs the
key-on or key-off action of every operator whose key signal moves, and does nothing else. -/
def Obligations.ValidWriteStoresAndActsOnKeyEdges : Prop :=
  ∀ (addr : BitVec 16) (v : Byte) (s : State), s.chip.init = true → addr.toNat ≤ 511 →
    let m0 := s.chip.regs
    let m1 := m0.write addr.toNat v
    exec (decodeWrite addr v) s = .next { s with
      chip := { s.chip with
        regs := m1
        ops := Vector.ofFn fun o : OpNum => afterEdge (key m0 o) (key m1 o) (rateOf m1 o (fAR m1 o)) s.chip.ops[o] }
      reply := .void }

/-- R142: a byte stored anywhere but at a `CHB0` register, 0x0BD, 0x104 or 0x105 moves no key signal. -/
def Obligations.OnlyFiveKindsOfRegisterMoveKeys : Prop :=
  ∀ (m : Memory) (a : BitVec 9) (v : Byte), a ≠ 0x0BD#9 → a ≠ 0x104#9 → a ≠ 0x105#9 → (∀ c : ChanNum, a ≠ chanAddr 0xB0 c) →
    ∀ o : OpNum, key (m.write a.toNat v) o = key m o

/-- R66: writing the byte a location already holds changes nothing. -/
def Obligations.RewritingTheSameByteChangesNothing : Prop :=
  ∀ (addr : BitVec 16) (s : State), s.chip.init = true → s.chip.regs.wf = true → addr.toNat ≤ 511 →
    exec (decodeWrite addr (s.chip.regs.read addr.toNat)) s = .next { s with reply := .void }

/-- R148 to R151: `REG01` to `REG04` store the byte; no decoded field, no operator and nothing else changes. -/
def Obligations.FunctionlessRegistersOnlyStore : Prop :=
  ∀ (v : Byte) (s : State), s.chip.init = true → s.chip.regs.wf = true →
    ∀ p ∈ [(Instr.writeReg01 v, 0x001#9), (.writeReg02 v, 0x002#9), (.writeReg03 v, 0x003#9), (.writeReg04 v, 0x004#9)],
      exec p.1 s = .next (s.stored p.2 v) ∧ (s.stored p.2 v).chip.regs.HoldsAt p.2 v s.chip.regs ∧
      (s.stored p.2 v).chip.regs.SameFields s.chip.regs

/-- R164: a `WRITE` at a reserved address stores the byte; no decoded field, no operator and nothing else changes. -/
def Obligations.ReservedWriteOnlyStores : Prop :=
  ∀ (a : BitVec 9) (v : Byte) (s : State), s.chip.init = true → s.chip.regs.wf = true → isReservedAddr a = true →
    exec (.writeRsvd a v) s = .next (s.stored a v) ∧ (s.stored a v).chip.regs.HoldsAt a v s.chip.regs ∧
    (s.stored a v).chip.regs.SameFields s.chip.regs

/-- R152: `WRITE 0x008` sets `NTS`, which selects the low bit of every key-scale value (R184), and moves no key; 0x108 is
no second `NTS`. -/
def Obligations.NoteSelectWrite : Prop :=
  ∀ (v : Byte) (s : State), s.chip.init = true → s.chip.regs.wf = true →
    let m1 := (s.stored 0x008#9 v).chip.regs
    exec (.writeNts v) s = .next (s.stored 0x008#9 v) ∧ m1.HoldsAt 0x008#9 v s.chip.regs ∧ fNTS m1 = v.getLsbD 6 ∧
    (∀ c : ChanNum, ksv m1 c = 2 * (fBLOCK s.chip.regs c).toNat +
      (if v.getLsbD 6 then (fFNUM s.chip.regs c).getLsbD 8 else (fFNUM s.chip.regs c).getLsbD 9).toNat) ∧
    isReservedAddr 0x108#9 = true

/-- R155: `WRITE` at the 0x20 register of an operator. -/
def Obligations.OperatorModeWrite : Prop :=
  ∀ (o : OpNum) (v : Byte) (s : State), s.chip.init = true → s.chip.regs.wf = true →
    let a := opAddr 0x20 o
    let m1 := (s.stored a v).chip.regs
    exec (.writeOp20 o v) s = .next (s.stored a v) ∧ m1.HoldsAt a v s.chip.regs ∧
    fAM m1 o = v.getLsbD 7 ∧ fVIB m1 o = v.getLsbD 6 ∧ fEGT m1 o = v.getLsbD 5 ∧ fKSR m1 o = v.getLsbD 4 ∧
    fMULT m1 o = v.extractLsb' 0 4

/-- R156: `WRITE` at the 0x40 register of an operator. -/
def Obligations.OperatorLevelWrite : Prop :=
  ∀ (o : OpNum) (v : Byte) (s : State), s.chip.init = true → s.chip.regs.wf = true →
    let a := opAddr 0x40 o
    let m1 := (s.stored a v).chip.regs
    exec (.writeOp40 o v) s = .next (s.stored a v) ∧ m1.HoldsAt a v s.chip.regs ∧
    fKSL m1 o = v.extractLsb' 6 2 ∧ fTL m1 o = v.extractLsb' 0 6

/-- R157: `WRITE` at the 0x60 register of an operator. -/
def Obligations.OperatorAttackDecayWrite : Prop :=
  ∀ (o : OpNum) (v : Byte) (s : State), s.chip.init = true → s.chip.regs.wf = true →
    let a := opAddr 0x60 o
    let m1 := (s.stored a v).chip.regs
    exec (.writeOp60 o v) s = .next (s.stored a v) ∧ m1.HoldsAt a v s.chip.regs ∧
    fAR m1 o = v.extractLsb' 4 4 ∧ fDR m1 o = v.extractLsb' 0 4

/-- R158, R104: `WRITE` at the 0x80 register of an operator, with the sustain target it gives. -/
def Obligations.OperatorSustainReleaseWrite : Prop :=
  ∀ (o : OpNum) (v : Byte) (s : State), s.chip.init = true → s.chip.regs.wf = true →
    let a := opAddr 0x80 o
    let m1 := (s.stored a v).chip.regs
    exec (.writeOp80 o v) s = .next (s.stored a v) ∧ m1.HoldsAt a v s.chip.regs ∧
    fSL m1 o = v.extractLsb' 4 4 ∧ fRR m1 o = v.extractLsb' 0 4 ∧
    sustainTarget m1 o = 511 - 16 * (if v.toNat / 16 = 15 then 31 else v.toNat / 16)

/-- R159, R200: `WRITE` at the 0xE0 register of an operator, with the waveform then in use. -/
def Obligations.OperatorWaveformWrite : Prop :=
  ∀ (o : OpNum) (v : Byte) (s : State), s.chip.init = true → s.chip.regs.wf = true →
    let a := opAddr 0xE0 o
    let m1 := (s.stored a v).chip.regs
    exec (.writeOpE0 o v) s = .next (s.stored a v) ∧ m1.HoldsAt a v s.chip.regs ∧
    fWS m1 o = v.extractLsb' 0 3 ∧ (wsEff m1 o).toNat = if fNEW s.chip.regs then v.toNat % 8 else v.toNat % 4

/-- R160, R103: `WRITE` at the 0xA0 register of a channel replaces the low byte of `FNUM`. -/
def Obligations.ChannelFrequencyWrite : Prop :=
  ∀ (c : ChanNum) (v : Byte) (s : State), s.chip.init = true → s.chip.regs.wf = true →
    let a := chanAddr 0xA0 c
    let m1 := (s.stored a v).chip.regs
    exec (.writeChA0 c v) s = .next (s.stored a v) ∧ m1.HoldsAt a v s.chip.regs ∧
    fFNUM m1 c = (fFNUM s.chip.regs c).extractLsb' 8 2 ++ v

/-- R162: `WRITE` at the 0xC0 register of a channel. -/
def Obligations.ChannelRoutingWrite : Prop :=
  ∀ (c : ChanNum) (v : Byte) (s : State), s.chip.init = true → s.chip.regs.wf = true →
    let a := chanAddr 0xC0 c
    let m1 := (s.stored a v).chip.regs
    exec (.writeChC0 c v) s = .next (s.stored a v) ∧ m1.HoldsAt a v s.chip.regs ∧
    fOUT m1 c 3 = v.getLsbD 7 ∧ fOUT m1 c 2 = v.getLsbD 6 ∧ fOUT m1 c 1 = v.getLsbD 5 ∧ fOUT m1 c 0 = v.getLsbD 4 ∧
    fFB m1 c = v.extractLsb' 1 3 ∧ fCNT m1 c = v.getLsbD 0

/-- R161: `WRITE` at the 0xB0 register of a channel. The operators the channel controls follow a change of `KON`, unless
their percussion key holds them; every other operator stays as it is. -/
def Obligations.ChannelKeyWrite : Prop :=
  ∀ (c : ChanNum) (v : Byte) (s : State), s.chip.init = true → s.chip.regs.wf = true →
    let m0 := s.chip.regs
    let a := chanAddr 0xB0 c
    let m1 := m0.write a.toNat v
    exec (.writeChB0 c v) s = .next { s with
      chip := { s.chip with
        regs := m1
        ops := Vector.ofFn fun o : OpNum =>
          if ctl m0 o = c ∧ keyDrum m0 o = false then
            afterEdge (fKON m0 c) (v.getLsbD 5) (rateOf m1 o (fAR m1 o)) s.chip.ops[o]
          else s.chip.ops[o] }
      reply := .void } ∧
    m1.HoldsAt a v m0 ∧ fKON m1 c = v.getLsbD 5 ∧ fBLOCK m1 c = v.extractLsb' 2 3 ∧
    fFNUM m1 c = v.extractLsb' 0 2 ++ (fFNUM m0 c).extractLsb' 0 8

/-- R143, R161: which operators a channel controls: its own two unless it is the second of a pair in effect, and its
partner's two when it is the first of one. -/
def Obligations.OperatorsThatAChannelControls : Prop :=
  ∀ (m : Memory) (c : ChanNum) (o : OpNum), ctl m o = c ↔
    (pairSecond m c = false ∧ chOf o = c) ∨ (pairFirst m c = true ∧ chOf o = chanAbove c)

/-- R163, R144, R268: `WRITE 0x0BD` sets the LFO depths, the rhythm enable and the percussion keys; each instrument's
operators follow their new key, or-ed with the key of their channel. -/
def Obligations.RhythmRegisterWrite : Prop :=
  ∀ (v : Byte) (s : State), s.chip.init = true → s.chip.regs.wf = true →
    let m0 := s.chip.regs
    let m1 := m0.write 0x0BD v
    exec (.writeBd v) s = .next { s with
      chip := { s.chip with
        regs := m1
        ops := Vector.ofFn fun o : OpNum =>
          afterEdge (fKON m0 (ctl m0 o) || drumKeyOf (m0.reg 0x0BD#9) o) (fKON m0 (ctl m0 o) || drumKeyOf v o)
            (rateOf m0 o (fAR m0 o)) s.chip.ops[o] }
      reply := .void } ∧
    m1.HoldsAt 0x0BD#9 v m0 ∧ fDAM m1 = v.getLsbD 7 ∧ fDVB m1 = v.getLsbD 6 ∧ fRYT m1 = v.getLsbD 5 ∧
    fBD m1 = v.getLsbD 4 ∧ fSD m1 = v.getLsbD 3 ∧ fTOM m1 = v.getLsbD 2 ∧ fTC m1 = v.getLsbD 1 ∧ fHH m1 = v.getLsbD 0

/-- R153: `WRITE 0x104` enables pairs. An operator's key follows its new control channel; an operator whose channel is not
the second of a pair that comes or goes stays as it is. -/
def Obligations.FourOpEnableWrite : Prop :=
  ∀ (v : Byte) (s : State), s.chip.init = true → s.chip.regs.wf = true →
    let m0 := s.chip.regs
    let m1 := m0.write 0x104 v
    ∃ t : State, exec (.writeConn4 v) s = .next t ∧
      t = { s with chip := { s.chip with regs := m1, ops := t.chip.ops }, reply := .void } ∧
      m1.HoldsAt 0x104#9 v m0 ∧ fCONN4 m1 = v.extractLsb' 0 6 ∧
      (∀ n : Fin 6, pairInEffect m1 n = (fNEW m0 && v.getLsbD n.val)) ∧
      ∀ o : OpNum,
        t.chip.ops[o] = afterEdge (fKON m0 (ctl m0 o) || keyDrum m0 o) (fKON m0 (ctl m1 o) || keyDrum m0 o)
          (rateOf m1 o (fAR m1 o)) s.chip.ops[o] ∧
        (pairSecond m1 (chOf o) = pairSecond m0 (chOf o) → t.chip.ops[o] = s.chip.ops[o])

/-- R154: `WRITE 0x105` sets `NEW`; the pairs enabled in `CONN4` come into or go out of effect, with the key events of R153
for each. -/
def Obligations.NewModeWrite : Prop :=
  ∀ (v : Byte) (s : State), s.chip.init = true → s.chip.regs.wf = true →
    let m0 := s.chip.regs
    let m1 := m0.write 0x105 v
    ∃ t : State, exec (.writeNew v) s = .next t ∧
      t = { s with chip := { s.chip with regs := m1, ops := t.chip.ops }, reply := .void } ∧
      m1.HoldsAt 0x105#9 v m0 ∧ fNEW m1 = v.getLsbD 0 ∧
      (∀ n : Fin 6, pairInEffect m1 n = (v.getLsbD 0 && (fCONN4 m0).getLsbD n.val)) ∧
      ∀ o : OpNum,
        t.chip.ops[o] = afterEdge (fKON m0 (ctl m0 o) || keyDrum m0 o) (fKON m0 (ctl m1 o) || keyDrum m0 o)
          (rateOf m1 o (fAR m1 o)) s.chip.ops[o] ∧
        (pairSecond m1 (chOf o) = pairSecond m0 (chOf o) → t.chip.ops[o] = s.chip.ops[o])

/-! ## The native tick -/

/-- R212 to R215, R180 pass 4: what a tick does to the global counters, each from its value before the tick; the noise
register never becomes zero; and what a tick leaves alone. -/
def Obligations.TickStepsTheGlobalCounters : Prop :=
  ∀ c : Chip,
    let d := (nativeTick c).1
    d.timer.toNat = (c.timer.toNat + 1) % 16384 ∧
    (c.tremPos.toNat < 210 →
      d.tremPos.toNat = if c.timer.toNat % 64 = 63 then (c.tremPos.toNat + 1) % 210 else c.tremPos.toNat) ∧
    d.vibPos.toNat = (if c.timer.toNat % 1024 = 1023 then (c.vibPos.toNat + 1) % 8 else c.vibPos.toNat) ∧
    d.noise.toNat = c.noise.toNat / 2 + (if c.noise.getLsbD 14 ^^ c.noise.getLsbD 0 then 4194304 else 0) ∧
    (c.noise ≠ 0#23 → d.noise ≠ 0#23) ∧
    d = { c with ops := d.ops, timer := d.timer, tremPos := d.tremPos, vibPos := d.vibPos, noise := d.noise }

/-- R183: every operator's phase advances at every tick by its phase step, modulo one full cycle. -/
def Obligations.TickAdvancesEveryPhase : Prop :=
  ∀ (c : Chip) (o : OpNum),
    ((nativeTick c).1.ops[o]).phase.toNat = (c.ops[o].phase.toNat + phaseInc c.regs c.vibPos o) % 2 ^ 19

/-- R181, R182, R105: the phase step from the fields. With `VIB` = 1 the frequency number is offset by the step of the vibrato
cycle, whose depth is `FNUM[9:7]`, halved with `DVB` = 0; with `VIB` = 0, or at vibrato position 0 or 4, by nothing. The step
never exceeds 988800. -/
def Obligations.PhaseStepFollowsTheFields : Prop :=
  ∀ (m : Memory) (vp : BitVec 3) (o : OpNum),
    let f := (fFNUM m (ctl m o)).toNat
    let r : Int := (f / 128 / (if fDVB m then 1 else 2) : Nat)
    let offset : List Int := [0, r / 2, r, r / 2, 0, -(r / 2), -r, -(r / 2)]
    let mt : List Nat := [1, 2, 4, 6, 8, 10, 12, 14, 16, 18, 20, 20, 24, 24, 30, 30]
    (fVIB m o = false → fnumVib m vp o = f) ∧
    (fVIB m o = true → (fnumVib m vp o : Int) = f + offset.getD vp.toNat 0) ∧
    phaseInc m vp o =
      fnumVib m vp o * 2 ^ (fBLOCK m (ctl m o)).toNat / 2 * mt.getD (fMULT m o).toNat 0 / 2 ∧
    fnumVib m vp o ≤ 1030 ∧ phaseInc m vp o ≤ 988800 ∧
    (fVIB m o = false ∨ vp = 0#3 ∨ vp = 4#3 →
      phaseInc m vp o = f * 2 ^ (fBLOCK m (ctl m o)).toNat / 2 * mt.getD (fMULT m o).toNat 0 / 2)

/-- R184 to R187: the key-scale value, the effective rate, and the increment of every rate at every timer value. The rate is at
most 60, 0 for a rate field of 0 and 60 for one of 15, and at least 4 in between; the increment is at most 4. -/
def Obligations.RatesAndIncrementsAreBounded : Prop :=
  (∀ (m : Memory) (c : ChanNum), ksv m c = 2 * (fBLOCK m c).toNat +
    (if fNTS m then (fFNUM m c).getLsbD 8 else (fFNUM m c).getLsbD 9).toNat) ∧
  (∀ (m : Memory) (o : OpNum) (r : BitVec 4),
    (r ≠ 0#4 → rateOf m o r = min 60 (4 * r.toNat + (if fKSR m o then ksv m (ctl m o) else ksv m (ctl m o) / 4))) ∧
    rateOf m o r ≤ 60 ∧ (r = 0#4 → rateOf m o r = 0) ∧ (r = 15#4 → rateOf m o r = 60) ∧ (r ≠ 0#4 → 4 ≤ rateOf m o r)) ∧
  ∀ (t : BitVec 14) (rate : Nat), rate ≤ 60 →
    let slow : List (List Nat) :=
      [[0, 1, 0, 1, 0, 1, 0, 1], [0, 1, 0, 1, 1, 1, 0, 1], [0, 1, 1, 1, 0, 1, 1, 1], [0, 1, 1, 1, 1, 1, 1, 1]]
    let fast : List (List Nat) :=
      [[1, 1, 1, 1, 1, 1, 1, 1], [2, 2, 1, 1, 1, 1, 1, 1], [2, 2, 1, 1, 2, 2, 1, 1], [2, 2, 2, 2, 2, 2, 1, 1]]
    let period := 2 ^ (12 - rate / 4)
    egInc t rate =
      (if rate < 4 then 0
       else if rate < 52 then
         (if t.toNat % period = 0 then (slow.getD (rate % 4) []).getD (t.toNat / period % 8) 0 else 0)
       else (fast.getD (rate % 4) []).getD (t.toNat % 8) 0 * 2 ^ (rate / 4 - 13)) ∧
    egInc t rate ≤ 4 ∧ egInc t 0 = 0 ∧ egInc t 60 = 4

/-- R188 to R193: what a tick does to the stage and the level of every operator, by the stage it finds. -/
def Obligations.TickAdvancesEveryEnvelope : Prop :=
  ∀ (c : Chip) (o : OpNum),
    let op := c.ops[o]
    let op' := (nativeTick c).1.ops[o]
    let inc := fun r => egInc c.timer (rateOf c.regs o r)
    (op.stage = .off → op'.stage = .off ∧ op'.level = op.level) ∧
    (op.stage = .attack →
      if op.level = 511#9 then op'.stage = .decay ∧ op'.level = op.level
      else op'.stage = .attack ∧
        op'.level.toNat = min 511 (op.level.toNat + ((512 - op.level.toNat) * inc (fAR c.regs o) + 7) / 8)) ∧
    (op.stage = .decay →
      if op.level.toNat ≤ sustainTarget c.regs o then op'.stage = .sustain ∧ op'.level = op.level
      else op'.stage = .decay ∧
        op'.level.toNat = max (sustainTarget c.regs o) (op.level.toNat - inc (fDR c.regs o))) ∧
    (op.stage = .sustain → fEGT c.regs o = true → op'.stage = .sustain ∧ op'.level = op.level) ∧
    (op.stage = .release ∨ (op.stage = .sustain ∧ fEGT c.regs o = false) →
      if op.level = 0#9 then op'.stage = .off ∧ op'.level = op.level
      else op'.stage = op.stage ∧ op'.level.toNat = op.level.toNat - inc (fRR c.regs o))

/-- R31: the envelope level moves monotonically toward its stage's target at each tick, and never past it. -/
def Obligations.EnvelopeLevelIsMonotone : Prop :=
  ∀ (c : Chip) (o : OpNum),
    let op := c.ops[o]
    let op' := (nativeTick c).1.ops[o]
    (op.stage = .attack → op.level.toNat ≤ op'.level.toNat) ∧
    (op.stage = .decay → op'.level.toNat ≤ op.level.toNat ∧ min op.level.toNat (sustainTarget c.regs o) ≤ op'.level.toNat) ∧
    (op.stage = .release ∨ (op.stage = .sustain ∧ fEGT c.regs o = false) → op'.level.toNat ≤ op.level.toNat) ∧
    (op.stage = .off ∨ (op.stage = .sustain ∧ fEGT c.regs o = true) → op'.level = op.level)

/-- R193: with no `WRITE` between, an operator in `Release` with a non-zero release rate is `Off` at level 0 within the bound
of the slowest rate, 2097152 ticks to level 0 and one more, and then stays so. -/
def Obligations.ReleaseRunsOutAtEveryRate : Prop :=
  ∀ (c : Chip) (o : OpNum) (n : Nat), c.ops[o].stage = .release → fRR c.regs o ≠ 0#4 → 2097153 ≤ n →
    (ticks n c).ops[o].stage = .off ∧ (ticks n c).ops[o].level = 0#9

/-- R193: at the highest release rate the level falls by 4 at each tick, so level `L` is silent after `L / 4` ticks rounded up
(at most 128) and the stage `Off` one tick later. -/
def Obligations.FastestReleaseFallsByFour : Prop :=
  ∀ (c : Chip) (o : OpNum) (n : Nat), c.ops[o].stage = .release → fRR c.regs o = 15#4 →
    (ticks n c).ops[o].level.toNat = c.ops[o].level.toNat - 4 * n ∧
    ((ticks n c).ops[o].stage = if c.ops[o].level.toNat + 4 ≤ 4 * n then .off else .release)

/-- R197, R199: the exponential conversion at every log value, with `EXPROM[i]` the integer nearest to
`(2 ^ (i / 256) - 1) * 1024`; it stays between 0 and 4084, and is 0 from 0xC00 up. -/
def Obligations.ExponentialConversionIsBounded : Prop :=
  (∀ l : Nat, expOf l = (exprom (255 - l % 256) + 1024) * 2 / 2 ^ (l / 256)) ∧
  (∀ i : Fin 256, (2 * exprom i.val + 2047) ^ 256 ≤ 2048 ^ 256 * 2 ^ i.val ∧
    2048 ^ 256 * 2 ^ i.val < (2 * exprom i.val + 2049) ^ 256) ∧
  (∀ l : Nat, expOf l ≤ 4084) ∧ (∀ l : Nat, 0xC00 ≤ l → expOf l = 0) ∧ expOf 0 = 4084

/-- R210: an operator at level 0 gives 0 or -1, whatever its waveform, position and other attenuation. -/
def Obligations.SilentOperatorGivesZeroOrMinusOne : Prop :=
  ∀ (m : Memory) (tp : BitVec 8) (n : BitVec 23) (ops : Vector Operator 36) (o : OpNum), ops[o].level = 0#9 →
    opSample m tp n ops o = 0 ∨ opSample m tp n ops o = -1

/-- R194 to R196: the total attenuation is the sum of the envelope, the total level, the key-scale level by pitch and `KSL`, and
with `AM` = 1 the tremolo triangle by `DAM`; it is at most 1013. -/
def Obligations.AttenuationIsBounded : Prop :=
  ∀ (m : Memory) (tp : BitVec 8) (o : OpNum) (op : Operator), tp.toNat < 210 →
    let c := ctl m o
    let rom : List Nat := [0, 32, 40, 45, 48, 51, 53, 55, 56, 58, 59, 60, 61, 62, 63, 64]
    let k := 4 * rom.getD ((fFNUM m c).toNat / 64) 0 - 32 * (8 - (fBLOCK m c).toNat)
    let triangle := min tp.toNat (210 - tp.toNat)
    kslAtt m o = (if fKSL m o = 0#2 then 0 else if fKSL m o = 1#2 then k / 2 else if fKSL m o = 2#2 then k / 4 else k) ∧
    tremAtt m tp = triangle / (if fDAM m then 4 else 16) ∧
    attOf m tp o op =
      (511 - op.level.toNat) + 4 * (fTL m o).toNat + kslAtt m o + (if fAM m o then tremAtt m tp else 0) ∧
    attOf m tp o op ≤ 1013

/-- R200 to R208: every waveform at every position and attenuation. In the first half-cycle each is the exponential of a log
value; the second half-cycle comes from the first by ones' complement (0, 6, and 7 mirrored), as silence (1, 4, 5), or as the
same again (2, 3). -/
def Obligations.SecondHalfCyclesOfWaveforms : Prop :=
  ∀ (p : BitVec 10) (a : Nat), p.toNat < 512 →
    wave 0#3 p a = expOf (logsin (BitVec.ofNat 8 (if p.toNat < 256 then p.toNat else 511 - p.toNat)) + 8 * a) ∧
    wave 0#3 (p + 512#10) a = -(wave 0#3 p a) - 1 ∧
    wave 1#3 p a = wave 0#3 p a ∧ wave 1#3 (p + 512#10) a = 0 ∧
    wave 2#3 p a = wave 0#3 p a ∧ wave 2#3 (p + 512#10) a = wave 0#3 p a ∧
    wave 3#3 p a = (if p.toNat < 256 then wave 0#3 p a else 0) ∧ wave 3#3 (p + 512#10) a = wave 3#3 p a ∧
    wave 5#3 p a = expOf (logsin (BitVec.ofNat 8
      (if p.toNat % 256 < 128 then 2 * (p.toNat % 256) else 2 * (255 - p.toNat % 256))) + 8 * a) ∧
    wave 5#3 (p + 512#10) a = 0 ∧
    wave 4#3 p a = (if p.toNat < 256 then wave 5#3 p a else -(wave 5#3 p a) - 1) ∧ wave 4#3 (p + 512#10) a = 0 ∧
    wave 6#3 p a = expOf (8 * a) ∧ wave 6#3 (p + 512#10) a = -(expOf (8 * a) : Int) - 1 ∧
    wave 7#3 p a = expOf (8 * p.toNat + 8 * a) ∧ wave 7#3 (1023#10 - p) a = -(wave 7#3 p a) - 1

/-- R180, R209, R210, R211, R249: after a tick every operator's sample is its waveform at a position and an attenuation of the
state AFTER the tick, modulated by samples of this same tick; only the feedback looks at the samples of the two ticks before.
So a whole chain settles in one tick, and the order of evaluation does not show. -/
def Obligations.TickSettlesEveryModulationChain : Prop :=
  ∀ (c : Chip) (o : OpNum),
    let m := c.regs
    let after := (nativeTick c).1.ops
    after[o].prevOut = c.ops[o].out ∧
    after[o].out = wave (wsEff m o)
      (if fRYT m = true ∧ (o = 13 ∨ o = 16 ∨ o = 17) then phaseIn m c.noise after o
       else BitVec.ofInt 10 ((after[o].phase.toNat / 512 : Nat) + settledModIn m c.ops after o))
      (attOf m c.tremPos o after[o])

/-- R241, R242, R248: the two 2-operator algorithms, for a channel in no pair in effect and outside rhythm mode. -/
def Obligations.TwoOperatorAlgorithms : Prop :=
  ∀ (m : Memory) (ops : Vector Operator 36) (c : ChanNum), chanMode m c = .twoOp →
    modIn m ops (op1 c) = fbMod m (op1 c) ops[op1 c] ∧
    (fCNT m c = false → modIn m ops (op2 c) = ops[op1 c].out ∧ chanOut m ops c = ops[op2 c].out) ∧
    (fCNT m c = true → modIn m ops (op2 c) = 0 ∧ chanOut m ops c = ops[op1 c].out + ops[op2 c].out)

/-- R243 to R248: the four 4-operator algorithms, and the silent second channel of the pair. -/
def Obligations.FourOperatorAlgorithms : Prop :=
  ∀ (m : Memory) (ops : Vector Operator 36) (c : ChanNum), pairFirst m c = true →
    let o1 := op1 c
    let o2 := op2 c
    let o3 := op1 (chanAbove c)
    let o4 := op2 (chanAbove c)
    let k1 := fCNT m c
    let k2 := fCNT m (chanAbove c)
    chanMode m c = .fourOpFirst ∧ chanMode m (chanAbove c) = .fourOpSecond ∧ chanOut m ops (chanAbove c) = 0 ∧
    modIn m ops o1 = fbMod m o1 ops[o1] ∧
    (k1 = false → k2 = false →
      modIn m ops o2 = ops[o1].out ∧ modIn m ops o3 = ops[o2].out ∧ modIn m ops o4 = ops[o3].out ∧
      chanOut m ops c = ops[o4].out) ∧
    (k1 = false → k2 = true →
      modIn m ops o2 = ops[o1].out ∧ modIn m ops o3 = 0 ∧ modIn m ops o4 = ops[o3].out ∧
      chanOut m ops c = ops[o2].out + ops[o4].out) ∧
    (k1 = true → k2 = false →
      modIn m ops o2 = 0 ∧ modIn m ops o3 = ops[o2].out ∧ modIn m ops o4 = ops[o3].out ∧
      chanOut m ops c = ops[o1].out + ops[o4].out) ∧
    (k1 = true → k2 = true →
      modIn m ops o2 = 0 ∧ modIn m ops o3 = ops[o2].out ∧ modIn m ops o4 = 0 ∧
      chanOut m ops c = ops[o1].out + ops[o3].out + ops[o4].out)

/-- R240, with R250 and R260: a channel is in a 4-operator mode exactly when it is in a pair in effect, in rhythm mode exactly
when `RYT` = 1 and it is 6, 7 or 8, and else in 2-operator mode; with `NEW` = 0 it is in no 4-operator mode. -/
def Obligations.ModesOfAChannel : Prop :=
  ∀ (m : Memory) (c : ChanNum),
    (chanMode m c = .fourOpFirst ↔ pairFirst m c = true) ∧ (chanMode m c = .fourOpSecond ↔ pairSecond m c = true) ∧
    (fNEW m = false → chanMode m c ≠ .fourOpFirst ∧ chanMode m c ≠ .fourOpSecond) ∧
    (chanMode m c = .rhythm ↔ fRYT m = true ∧ 6 ≤ c.val ∧ c.val ≤ 8)

/-- R261 to R267: with rhythm mode on, the waveform positions of the hi-hat, the snare drum, the top cymbal and the tom-tom,
the modulation of the bass drum, and the three doubled channel samples. -/
def Obligations.RhythmInstruments : Prop :=
  ∀ (m : Memory) (n : BitVec 23) (ops : Vector Operator 36), fRYT m = true →
    let h := ops[(13 : OpNum)].phase.toNat / 512
    let t := ops[(17 : OpNum)].phase.toNat / 512
    let rm := ((h.testBit 2 ^^ h.testBit 7) || (h.testBit 3 ^^ t.testBit 5)) || (t.testBit 3 ^^ t.testBit 5)
    let nb := n.getLsbD 0
    (phaseIn m n ops 13).toNat = 512 * rm.toNat + (if rm ^^ nb then 0xD0 else 0x34) ∧
    (phaseIn m n ops 16).toNat = 512 * (h.testBit 8).toNat + 256 * (h.testBit 8 ^^ nb).toNat ∧
    (phaseIn m n ops 17).toNat = 512 * rm.toNat + 0x80 ∧
    (phaseIn m n ops 14).toNat = ops[(14 : OpNum)].phase.toNat / 512 ∧
    modIn m ops 12 = fbMod m 12 ops[(12 : OpNum)] ∧
    modIn m ops 15 = (if fCNT m 6 then 0 else ops[(12 : OpNum)].out) ∧
    chanOut m ops 6 = 2 * ops[(15 : OpNum)].out ∧
    chanOut m ops 7 = 2 * ops[(13 : OpNum)].out + 2 * ops[(16 : OpNum)].out ∧
    chanOut m ops 8 = 2 * ops[(14 : OpNum)].out + 2 * ops[(17 : OpNum)].out

/-- R280, R282: each native sample is the sum of the channels selected for its output, clipped once; with `NEW` = 0 every
channel goes to outputs A and B and to no other. -/
def Obligations.MixerSelectsSumsAndClips : Prop :=
  ∀ c : Chip,
    let d := (nativeTick c).1
    (∀ x : OutPos, ((nativeTick c).2[x]).toInt =
      max (-32768) (min 32767 (∑ ch : ChanNum, if panEff c.regs ch x then chanOut c.regs d.ops ch else 0))) ∧
    (fNEW c.regs = true → ∀ (ch : ChanNum) (x : OutPos), panEff c.regs ch x = fOUT c.regs ch x) ∧
    (fNEW c.regs = false → (∀ (ch : ChanNum) (x : OutPos), panEff c.regs ch x = true ↔ x = 0 ∨ x = 1) ∧
      (nativeTick c).2[0] = (nativeTick c).2[1] ∧ (nativeTick c).2[2] = 0#16 ∧ (nativeTick c).2[3] = 0#16)

/-! ## The whole machine -/

/-- The invariant of R33 to R35, R189 and R216 holds right after `RESET`, at every rate, and in `State.reset`, whose rate is
the model's choice (log entry 3). -/
def Obligations.InvariantHoldsAfterReset : Prop :=
  State.reset.Inv ∧ ∀ rate : BitVec 32, (Chip.afterReset rate).Inv

/-- R216, R31, R33 to R35, R189: every step from a state with the invariant gives a state with it. -/
def Obligations.StepKeepsTheInvariant : Prop :=
  ∀ s t : State, s.Inv → step s = .next t → t.Inv

/-- R120, R21: once `init` is true every operation completes and raises nothing, and `init` stays true, in every state of the
invariant. -/
def Obligations.InitialisedCoreNeverStops : Prop :=
  ∀ s : State, s.chip.init = true → s.Inv → ∃ t : State, step s = .next t ∧ t.chip.init = true

/-- R102, R164, R148 to R151: register bytes that no rule reads cannot be observed: two states that differ in nothing else
step alike, to states that differ in nothing else. -/
def Obligations.UnreadBytesAreNeverObserved : Prop :=
  ∀ s t : State, s.SameButUnread t → outcomesAgree (step s) (step t)

/-- R331: from any state at all, after a `RESET` and any number of `GEN`s with no `WRITE`, every frame is silent. The run rests on
the queue of pending operations, which is the model's choice (log entry 1). -/
def Obligations.SilenceAfterResetUntilAWrite : Prop :=
  ∀ (rate : BitVec 32) (n : Nat) (s : State), ∃ t : State,
    Sys2Proof.core.run (n + 2)
      ({ s with pending := encode (.reset rate) :: List.replicate (n + 1) (encode .gen) } : State) = .next t ∧
    t.reply = .frame zeroFrame ∧ t.chip.outbuf = zeroFrame ∧ t.pending = []

/-- R287: after `n + 1` `GEN`s since a `RESET`, `n * 1024 / rateratio` ticks have been executed (the timer counts them modulo
16384), and the position is that of one output frame past the last interpolation. The run rests on the queue of pending
operations, which is the model's choice (log entry 1). -/
def Obligations.TicksExecutedSinceReset : Prop :=
  ∀ (rate : BitVec 32) (n : Nat) (s : State), ∃ t : State,
    Sys2Proof.core.run (n + 2)
      ({ s with pending := encode (.reset rate) :: List.replicate (n + 1) (encode .gen) } : State) = .next t ∧
    t.chip.timer.toNat = (n * 1024 / (ratioOf rate).toNat) % 16384 ∧
    t.chip.samplecnt.toNat = n * 1024 % (ratioOf rate).toNat + 1024

/-! ## Values of the views and tables that the statements above build on -/

/-- R141: the six candidate pairs, channels 0, 1, 2, 9, 10, 11 each with the channel three above, are in effect by `NEW` and
`CONN4`; no other channel is in a pair. -/
def Obligations.PairsOfChannels : Prop :=
  ∀ (m : Memory) (c : ChanNum),
    let first := fun n : Fin 6 => [0, 1, 2, 9, 10, 11].getD n.val 0
    (∀ n : Fin 6, pairInEffect m n = (fNEW m && (fCONN4 m).getLsbD n.val)) ∧
    (pairFirst m c = true ↔ ∃ n : Fin 6, pairInEffect m n = true ∧ c.val = first n) ∧
    (pairSecond m c = true ↔ ∃ n : Fin 6, pairInEffect m n = true ∧ c.val = first n + 3)

/-- R211: the feedback is 0 for feedback level 0 of the control channel, and else the sum of the operator's last two samples
divided by `2 ^ (9 - FB)`, rounded toward minus infinity; its range; and the operators that have it. -/
def Obligations.FeedbackBlendsTheLastTwoSamples : Prop :=
  (∀ (m : Memory) (o : OpNum) (op : Operator),
    let fb := (fFB m (ctl m o)).toNat
    (fb = 0 → fbMod m o op = 0) ∧
    (fb ≠ 0 → fbMod m o op * 2 ^ (9 - fb) ≤ op.prevOut + op.out ∧ op.prevOut + op.out < (fbMod m o op + 1) * 2 ^ (9 - fb)) ∧
    (op.Inv → -2043 ≤ fbMod m o op ∧ fbMod m o op ≤ 2042)) ∧
  ∀ (m : Memory) (ops : Vector Operator 36) (c : ChanNum),
    chanMode m c = .twoOp ∨ chanMode m c = .fourOpFirst ∨ (chanMode m c = .rhythm ∧ c = 6) →
      modIn m ops (op1 c) = fbMod m (op1 c) ops[op1 c]

/-- R198, R199, R201, R203, R205, R206, R208: the lengths and sums of the two tables, the fall of the log-sine table, and the
samples the rules list at attenuation 0. -/
def Obligations.WaveformSamples : Prop :=
  logsinTable.length = 256 ∧ logsinTable.sum = 65406 ∧ expromTable.length = 256 ∧ expromTable.sum = 115543 ∧
  (∀ i : Fin 255, logsinTable.getD (i.val + 1) 0 ≤ logsinTable.getD i.val 0) ∧
  [0, 1, 127, 128, 255, 256, 383, 384, 511, 512, 513, 767, 768, 1023].map (fun p => wave 0#3 (BitVec.ofNat 10 p) 0) =
    [12, 37, 2880, 2896, 4084, 4084, 2896, 2880, 12, -13, -38, -4085, -4085, -13] ∧
  [512, 767].map (fun p => wave 2#3 (BitVec.ofNat 10 p) 0) = [12, 4084] ∧
  [0, 1, 127, 128, 255, 256, 383, 511, 512].map (fun p => wave 4#3 (BitVec.ofNat 10 p) 0) =
    [12, 62, 4084, 4084, 12, -13, -4085, -13, 0] ∧
  [256, 383].map (fun p => wave 5#3 (BitVec.ofNat 10 p) 0) = [12, 4084] ∧
  [0, 1, 127, 128, 255, 256, 383, 384, 511, 512, 639, 767, 895, 1023].map (fun p => wave 7#3 (BitVec.ofNat 10 p) 0) =
    [4084, 3998, 261, 255, 16, 15, 1, 0, 0, -1, -1, -16, -256, -4085]
end

