-- ==== Sys2Proof/Laws/Memory.lean ====
section
/-! SUPPORT. The register file as a canonical list: a write keeps the form, a read gives the last byte written, and a write
leaves every other location alone. -/

namespace Sys2Proof.Machine

@[simp] theorem Memory.read_nil (a : Nat) : Memory.read [] a = 0x00#8 := rfl

/-- A weaker lower bound. -/
theorem Memory.wfFrom_mono {m : Memory} {lo lo' : Nat} (h : lo' ≤ lo) (hm : m.wfFrom lo = true) : m.wfFrom lo' = true := by
  cases m with
  | nil => rfl
  | cons e m =>
    obtain ⟨a, v⟩ := e
    simp only [Memory.wfFrom, Bool.and_eq_true, decide_eq_true_eq] at hm ⊢
    exact ⟨⟨⟨h.trans hm.1.1.1, hm.1.1.2⟩, hm.1.2⟩, hm.2⟩

/-- Below the lower bound nothing is listed. -/
theorem Memory.read_below {m : Memory} {lo a : Nat} (hm : m.wfFrom lo = true) (h : a < lo) : m.read a = unlisted := by
  induction m generalizing lo with
  | nil => rfl
  | cons e m ih =>
    obtain ⟨b, v⟩ := e
    simp only [Memory.wfFrom, Bool.and_eq_true, decide_eq_true_eq] at hm
    simp only [Memory.read, if_neg (by omega : ¬ a = b)]
    exact ih hm.2 (by omega)

/-- A write keeps the canonical form. -/
theorem Memory.write_wfFrom {m : Memory} {lo a : Nat} (v : Byte) (hm : m.wfFrom lo = true) (hlo : lo ≤ a) (ha : a < 512) :
    (m.write a v).wfFrom lo = true := by
  induction m generalizing lo with
  | nil =>
    unfold Memory.write
    split
    · rfl
    · simp [Memory.wfFrom, *]
  | cons e m ih =>
    obtain ⟨b, w⟩ := e
    have hm' := hm
    simp only [Memory.wfFrom, Bool.and_eq_true, decide_eq_true_eq] at hm'
    unfold Memory.write
    split
    · split
      · exact hm
      · simp only [Memory.wfFrom, Bool.and_eq_true, decide_eq_true_eq]
        exact ⟨⟨⟨hlo, ha⟩, ‹_›⟩, ⟨⟨by omega, hm'.1.1.2⟩, hm'.1.2⟩, hm'.2⟩
    · split
      · split
        · exact Memory.wfFrom_mono (by omega) hm'.2
        · subst_vars
          simp only [Memory.wfFrom, Bool.and_eq_true, decide_eq_true_eq]
          exact ⟨⟨hm'.1.1, ‹_›⟩, hm'.2⟩
      · simp only [Memory.wfFrom, Bool.and_eq_true, decide_eq_true_eq]
        exact ⟨hm'.1, ih hm'.2 (by omega)⟩

/-- Every `WRITE` keeps the canonical form of the register file. -/
theorem Memory.write_wf {m : Memory} (hm : m.wf = true) (a : BitVec 9) (v : Byte) : (m.write a.toNat v).wf = true :=
  Memory.write_wfFrom v hm (Nat.zero_le _) a.isLt

/-- A location reads as the byte last written to it. -/
theorem Memory.read_write_self {m : Memory} {lo : Nat} (hm : m.wfFrom lo = true) (a : Nat) (v : Byte) :
    (m.write a v).read a = v := by
  induction m generalizing lo with
  | nil =>
    unfold Memory.write
    split <;> simp_all [Memory.read, unlisted]
  | cons e m ih =>
    obtain ⟨b, w⟩ := e
    have hm' := hm
    simp only [Memory.wfFrom, Bool.and_eq_true, decide_eq_true_eq] at hm'
    unfold Memory.write
    split
    · split
      · subst_vars
        simp only [Memory.read, if_neg (by omega : ¬ a = b)]
        exact Memory.read_below hm'.2 (by omega)
      · simp [Memory.read]
    · split
      · split
        · subst_vars
          exact Memory.read_below hm'.2 (by omega)
        · simp [Memory.read]
      · simp only [Memory.read, if_neg ‹¬ a = b›]
        exact ih hm'.2

/-- Every other location reads as before, in any file. -/
theorem Memory.read_write_other (m : Memory) {a b : Nat} (v : Byte) (h : b ≠ a) : (m.write a v).read b = m.read b := by
  induction m with
  | nil =>
    unfold Memory.write
    split
    · rfl
    · simp [Memory.read, h]
  | cons e m ih =>
    obtain ⟨k, w⟩ := e
    unfold Memory.write
    split
    · split
      · rfl
      · simp [Memory.read, h]
    · split
      · split
        · subst_vars
          simp [Memory.read, h]
        · subst_vars
          simp [Memory.read, h]
      · simp only [Memory.read]
        split
        · rfl
        · exact ih

@[simp] theorem Memory.reg_write_self {m : Memory} (hm : m.wf = true) (a : BitVec 9) (v : Byte) :
    Memory.reg (m.write a.toNat v) a = v := Memory.read_write_self hm a.toNat v

theorem Memory.reg_write_other (m : Memory) {a b : BitVec 9} (v : Byte) (h : b ≠ a) :
    Memory.reg (m.write a.toNat v) b = m.reg b :=
  Memory.read_write_other m v (fun e => h (BitVec.eq_of_toNat_eq e))

/-- The register file after `RESET` is in canonical form, and every location reads 0 (R38). -/
theorem State.reset_regs_wf : State.reset.chip.regs.wf = true := rfl

end Sys2Proof.Machine
end

