-- ==== Sys2Proof/Laws/State.lean ====
section
/-! SUPPORT. One lemma for each field and each update of the state records, so that no later proof unfolds an update. -/

namespace Sys2Proof.Machine

/-! ## `State.completed` -/

@[simp] theorem State.completed_chip (s : State) (c : Chip) (r : Reply) : (s.completed c r).chip = c := rfl
@[simp] theorem State.completed_pending (s : State) (c : Chip) (r : Reply) : (s.completed c r).pending = s.pending := rfl
@[simp] theorem State.completed_reply (s : State) (c : Chip) (r : Reply) : (s.completed c r).reply = r := rfl

/-! ## `State.stored` -/

@[simp] theorem State.stored_regs (s : State) (a : BitVec 9) (v : Byte) :
    (s.stored a v).chip.regs = s.chip.regs.write a.toNat v := rfl
@[simp] theorem State.stored_ops (s : State) (a : BitVec 9) (v : Byte) : (s.stored a v).chip.ops = s.chip.ops := rfl
@[simp] theorem State.stored_init (s : State) (a : BitVec 9) (v : Byte) : (s.stored a v).chip.init = s.chip.init := rfl
@[simp] theorem State.stored_pending (s : State) (a : BitVec 9) (v : Byte) : (s.stored a v).pending = s.pending := rfl
@[simp] theorem State.stored_reply (s : State) (a : BitVec 9) (v : Byte) : (s.stored a v).reply = .void := rfl

/-! ## `State.withFetchWord` -/

@[simp] theorem State.withFetchWord_chip (s : State) (nbits w : Nat) : (s.withFetchWord nbits w).chip = s.chip := by
  unfold State.withFetchWord; split <;> rfl
@[simp] theorem State.withFetchWord_reply (s : State) (nbits w : Nat) : (s.withFetchWord nbits w).reply = s.reply := by
  unfold State.withFetchWord; split <;> rfl

/-! ## `regWrite` -/

@[simp] theorem regWrite_regs (c : Chip) (a : BitVec 9) (v : Byte) : (regWrite c a v).regs = c.regs.write a.toNat v := by unfold regWrite; rfl
@[simp] theorem regWrite_init (c : Chip) (a : BitVec 9) (v : Byte) : (regWrite c a v).init = c.init := by unfold regWrite; rfl
@[simp] theorem regWrite_timer (c : Chip) (a : BitVec 9) (v : Byte) : (regWrite c a v).timer = c.timer := by unfold regWrite; rfl
@[simp] theorem regWrite_tremPos (c : Chip) (a : BitVec 9) (v : Byte) : (regWrite c a v).tremPos = c.tremPos := by unfold regWrite; rfl
@[simp] theorem regWrite_vibPos (c : Chip) (a : BitVec 9) (v : Byte) : (regWrite c a v).vibPos = c.vibPos := by unfold regWrite; rfl
@[simp] theorem regWrite_noise (c : Chip) (a : BitVec 9) (v : Byte) : (regWrite c a v).noise = c.noise := by unfold regWrite; rfl
@[simp] theorem regWrite_rateratio (c : Chip) (a : BitVec 9) (v : Byte) : (regWrite c a v).rateratio = c.rateratio := by unfold regWrite; rfl
@[simp] theorem regWrite_samplecnt (c : Chip) (a : BitVec 9) (v : Byte) : (regWrite c a v).samplecnt = c.samplecnt := by unfold regWrite; rfl
@[simp] theorem regWrite_cur (c : Chip) (a : BitVec 9) (v : Byte) : (regWrite c a v).cur = c.cur := by unfold regWrite; rfl
@[simp] theorem regWrite_old (c : Chip) (a : BitVec 9) (v : Byte) : (regWrite c a v).old = c.old := by unfold regWrite; rfl
@[simp] theorem regWrite_outbuf (c : Chip) (a : BitVec 9) (v : Byte) : (regWrite c a v).outbuf = c.outbuf := by unfold regWrite; rfl

/-! ## `keyOn`, `keyOff` -/

@[simp] theorem keyOn_phase (m : Memory) (o : OpNum) (op : Operator) : (keyOn m o op).phase = 0#19 := by
  unfold keyOn; split <;> rfl
@[simp] theorem keyOn_out (m : Memory) (o : OpNum) (op : Operator) : (keyOn m o op).out = op.out := by
  unfold keyOn; split <;> rfl
@[simp] theorem keyOn_prevOut (m : Memory) (o : OpNum) (op : Operator) : (keyOn m o op).prevOut = op.prevOut := by
  unfold keyOn; split <;> rfl
@[simp] theorem keyOff_phase (op : Operator) : (keyOff op).phase = op.phase := rfl
@[simp] theorem keyOff_stage (op : Operator) : (keyOff op).stage = .release := rfl
@[simp] theorem keyOff_level (op : Operator) : (keyOff op).level = op.level := rfl
@[simp] theorem keyOff_out (op : Operator) : (keyOff op).out = op.out := rfl
@[simp] theorem keyOff_prevOut (op : Operator) : (keyOff op).prevOut = op.prevOut := rfl

/-! ## `phaseAdvance` and the envelope steps -/

@[simp] theorem phaseAdvance_stage (m : Memory) (vp : BitVec 3) (o : OpNum) (op : Operator) :
    (phaseAdvance m vp o op).stage = op.stage := rfl
@[simp] theorem phaseAdvance_level (m : Memory) (vp : BitVec 3) (o : OpNum) (op : Operator) :
    (phaseAdvance m vp o op).level = op.level := rfl
@[simp] theorem phaseAdvance_out (m : Memory) (vp : BitVec 3) (o : OpNum) (op : Operator) :
    (phaseAdvance m vp o op).out = op.out := rfl
@[simp] theorem phaseAdvance_prevOut (m : Memory) (vp : BitVec 3) (o : OpNum) (op : Operator) :
    (phaseAdvance m vp o op).prevOut = op.prevOut := rfl

@[simp] theorem attackStep_stage (inc : Nat) (op : Operator) :
    (attackStep inc op).stage = if op.level = 511#9 then .decay else op.stage := by unfold attackStep; split <;> rfl
@[simp] theorem attackStep_level (inc : Nat) (op : Operator) :
    (attackStep inc op).level =
      if op.level = 511#9 then op.level
      else BitVec.ofNat 9 (min 511 (op.level.toNat + (((512 - op.level.toNat) * inc + 7) >>> 3))) := by
  unfold attackStep; split <;> rfl
@[simp] theorem decayStep_stage (target inc : Nat) (op : Operator) :
    (decayStep target inc op).stage = if op.level.toNat ≤ target then .sustain else op.stage := by
  unfold decayStep; split <;> rfl
@[simp] theorem decayStep_level (target inc : Nat) (op : Operator) :
    (decayStep target inc op).level =
      if op.level.toNat ≤ target then op.level else BitVec.ofNat 9 (max target (op.level.toNat - inc)) := by
  unfold decayStep; split <;> rfl
@[simp] theorem releaseStep_stage (inc : Nat) (op : Operator) :
    (releaseStep inc op).stage = if op.level = 0#9 then .off else op.stage := by unfold releaseStep; split <;> rfl
@[simp] theorem releaseStep_level (inc : Nat) (op : Operator) :
    (releaseStep inc op).level = if op.level = 0#9 then op.level else BitVec.ofNat 9 (op.level.toNat - inc) := by
  unfold releaseStep; split <;> rfl

/-- The envelope moves the stage and the level, nothing else (R188). -/
theorem envAdvance_frame (m : Memory) (t : BitVec 14) (o : OpNum) (op : Operator) :
    (envAdvance m t o op).phase = op.phase ∧ (envAdvance m t o op).out = op.out ∧
      (envAdvance m t o op).prevOut = op.prevOut := by
  unfold envAdvance attackStep decayStep releaseStep
  split <;> (try split) <;> (try split) <;> exact ⟨rfl, rfl, rfl⟩

@[simp] theorem envAdvance_phase (m : Memory) (t : BitVec 14) (o : OpNum) (op : Operator) :
    (envAdvance m t o op).phase = op.phase := (envAdvance_frame m t o op).1
@[simp] theorem envAdvance_out (m : Memory) (t : BitVec 14) (o : OpNum) (op : Operator) :
    (envAdvance m t o op).out = op.out := (envAdvance_frame m t o op).2.1
@[simp] theorem envAdvance_prevOut (m : Memory) (t : BitVec 14) (o : OpNum) (op : Operator) :
    (envAdvance m t o op).prevOut = op.prevOut := (envAdvance_frame m t o op).2.2

/-- The envelope does not look at the phase. -/
theorem envAdvance_withPhase (m : Memory) (t : BitVec 14) (o : OpNum) (op : Operator) (p : BitVec 19) :
    envAdvance m t o { op with phase := p } = { envAdvance m t o op with phase := p } := by
  obtain ⟨_, stage, level, _, _⟩ := op
  unfold envAdvance attackStep decayStep releaseStep
  cases stage <;> dsimp only <;> split_ifs <;> rfl

@[simp] theorem envAdvance_phaseAdvance_stage (m : Memory) (t : BitVec 14) (vp : BitVec 3) (o : OpNum) (op : Operator) :
    (envAdvance m t o (phaseAdvance m vp o op)).stage = (envAdvance m t o op).stage := by
  rw [phaseAdvance, envAdvance_withPhase]

@[simp] theorem envAdvance_phaseAdvance_level (m : Memory) (t : BitVec 14) (vp : BitVec 3) (o : OpNum) (op : Operator) :
    (envAdvance m t o (phaseAdvance m vp o op)).level = (envAdvance m t o op).level := by
  rw [phaseAdvance, envAdvance_withPhase]

/-! ## `nativeTick`, `resampleTick` -/

@[simp] theorem nativeTick_init (c : Chip) : (nativeTick c).1.init = c.init := by unfold nativeTick; rfl
@[simp] theorem nativeTick_regs (c : Chip) : (nativeTick c).1.regs = c.regs := by unfold nativeTick; rfl
@[simp] theorem nativeTick_ops (c : Chip) : (nativeTick c).1.ops = pass2 c (pass1 c) := by unfold nativeTick; rfl
@[simp] theorem nativeTick_timer (c : Chip) : (nativeTick c).1.timer = timerNext c.timer := by unfold nativeTick; rfl
@[simp] theorem nativeTick_tremPos (c : Chip) : (nativeTick c).1.tremPos = tremNext c.timer c.tremPos := by unfold nativeTick; rfl
@[simp] theorem nativeTick_vibPos (c : Chip) : (nativeTick c).1.vibPos = vibNext c.timer c.vibPos := by unfold nativeTick; rfl
@[simp] theorem nativeTick_noise (c : Chip) : (nativeTick c).1.noise = noiseNext c.noise := by unfold nativeTick; rfl
@[simp] theorem nativeTick_rateratio (c : Chip) : (nativeTick c).1.rateratio = c.rateratio := by unfold nativeTick; rfl
@[simp] theorem nativeTick_samplecnt (c : Chip) : (nativeTick c).1.samplecnt = c.samplecnt := by unfold nativeTick; rfl
@[simp] theorem nativeTick_cur (c : Chip) : (nativeTick c).1.cur = c.cur := by unfold nativeTick; rfl
@[simp] theorem nativeTick_old (c : Chip) : (nativeTick c).1.old = c.old := by unfold nativeTick; rfl
@[simp] theorem nativeTick_outbuf (c : Chip) : (nativeTick c).1.outbuf = c.outbuf := by unfold nativeTick; rfl
@[simp] theorem nativeTick_frame (c : Chip) : (nativeTick c).2 = nativeFrame c.regs (nativeTick c).1.ops := by unfold nativeTick; rfl

@[simp] theorem resampleTick_init (c : Chip) : (resampleTick c).init = c.init := by simp [resampleTick]
@[simp] theorem resampleTick_regs (c : Chip) : (resampleTick c).regs = c.regs := by simp [resampleTick]
@[simp] theorem resampleTick_ops (c : Chip) : (resampleTick c).ops = (nativeTick c).1.ops := by unfold resampleTick; rfl
@[simp] theorem resampleTick_timer (c : Chip) : (resampleTick c).timer = timerNext c.timer := by unfold resampleTick; rfl
@[simp] theorem resampleTick_tremPos (c : Chip) : (resampleTick c).tremPos = tremNext c.timer c.tremPos := by unfold resampleTick; rfl
@[simp] theorem resampleTick_vibPos (c : Chip) : (resampleTick c).vibPos = vibNext c.timer c.vibPos := by unfold resampleTick; rfl
@[simp] theorem resampleTick_noise (c : Chip) : (resampleTick c).noise = noiseNext c.noise := by unfold resampleTick; rfl
@[simp] theorem resampleTick_rateratio (c : Chip) : (resampleTick c).rateratio = c.rateratio := by simp [resampleTick]
@[simp] theorem resampleTick_samplecnt (c : Chip) :
    (resampleTick c).samplecnt = c.samplecnt - c.rateratio.setWidth 28 := by unfold resampleTick; rfl
@[simp] theorem resampleTick_cur (c : Chip) : (resampleTick c).cur = nativeFrame c.regs (nativeTick c).1.ops := by unfold resampleTick; rfl
@[simp] theorem resampleTick_old (c : Chip) : (resampleTick c).old = c.cur := by unfold resampleTick; rfl
@[simp] theorem resampleTick_outbuf (c : Chip) : (resampleTick c).outbuf = c.outbuf := by simp [resampleTick]

/-! ## `chipGen` -/

@[simp] theorem chipGen_ops (c : Chip) : (chipGen c).ops = (tickLoop c.samplecnt.toNat c).ops := by unfold chipGen; rfl
@[simp] theorem chipGen_outbuf (c : Chip) : (chipGen c).outbuf = interpolated (tickLoop c.samplecnt.toNat c) := by unfold chipGen; rfl
@[simp] theorem chipGen_timer (c : Chip) : (chipGen c).timer = (tickLoop c.samplecnt.toNat c).timer := by unfold chipGen; rfl
@[simp] theorem chipGen_tremPos (c : Chip) : (chipGen c).tremPos = (tickLoop c.samplecnt.toNat c).tremPos := by unfold chipGen; rfl
@[simp] theorem chipGen_vibPos (c : Chip) : (chipGen c).vibPos = (tickLoop c.samplecnt.toNat c).vibPos := by unfold chipGen; rfl
@[simp] theorem chipGen_noise (c : Chip) : (chipGen c).noise = (tickLoop c.samplecnt.toNat c).noise := by unfold chipGen; rfl
@[simp] theorem chipGen_cur (c : Chip) : (chipGen c).cur = (tickLoop c.samplecnt.toNat c).cur := by unfold chipGen; rfl
@[simp] theorem chipGen_old (c : Chip) : (chipGen c).old = (tickLoop c.samplecnt.toNat c).old := by unfold chipGen; rfl
@[simp] theorem chipGen_samplecnt (c : Chip) :
    (chipGen c).samplecnt = (tickLoop c.samplecnt.toNat c).samplecnt + 1024#28 := by unfold chipGen; rfl

end Sys2Proof.Machine
end

