-- ==== Sys2Proof/Laws/Ops.lean ====
section
/-! SUPPORT. What each shared operation can do, said once: the operator loops, the guard on `init`, the register write, the
two passes of a tick, and the tick loop. -/

namespace Sys2Proof.Machine

/-! ## Loops over the operators -/

/-- `mapOps` gives every operator its own new state. -/
theorem mapOps_get (f : OpNum → Operator → Operator) (ops : Vector Operator 36) (o : OpNum) :
    (mapOps f ops)[o] = f o ops[o] := by simp [mapOps]

/-- `mapOps_get` in the form that `simp` brings an index to. -/
@[simp] theorem mapOps_getElem (f : OpNum → Operator → Operator) (ops : Vector Operator 36) (i : Nat) (h : i < 36) :
    (mapOps f ops)[i] = f ⟨i, h⟩ ops[i] := mapOps_get f ops ⟨i, h⟩

/-- Two vectors with the same operators are equal. -/
theorem ops_ext {u v : Vector Operator 36} (h : ∀ o : OpNum, u[o] = v[o]) : u = v := by
  ext1 i hi
  exact h ⟨i, hi⟩

/-- A loop that leaves every operator as it is. -/
theorem mapOps_id {f : OpNum → Operator → Operator} {ops : Vector Operator 36} (h : ∀ o : OpNum, f o ops[o] = ops[o]) :
    mapOps f ops = ops := ops_ext fun o => by rw [mapOps_get, h]

/-! ## The guard on `init` (R125) -/

theorem whenInit_of_init {s : State} (h : s.chip.init = true) (r : Host.Outcome State Fault Refusal) :
    whenInit s r = r := by simp [whenInit, h]

theorem whenInit_of_not_init {s : State} (h : s.chip.init = false) (r : Host.Outcome State Fault Refusal) :
    whenInit s r = .refused .beforeReset := by simp [whenInit, h]

/-- If a guarded operation goes on, the core was initialised and the operation itself went on. -/
theorem whenInit_next {s t : State} {r : Host.Outcome State Fault Refusal} (h : whenInit s r = .next t) :
    s.chip.init = true ∧ r = .next t := by
  unfold whenInit at h
  split at h
  · exact ⟨‹_›, h⟩
  · cases h

/-! ## The register write -/

/-- What a key edge leaves of an operator (R140, R145, R146). -/
theorem keyEdge_eq (m0 m1 : Memory) (o : OpNum) (op : Operator) :
    keyEdge m0 m1 o op = afterEdge (key m0 o) (key m1 o) (rateOf m1 o (fAR m1 o)) op := by
  unfold keyEdge afterEdge keyOn keyOff
  cases key m0 o <;> cases key m1 o <;> simp [Nat.shiftRight_eq_div_pow]
  split <;> simp_all

/-- No edge, no change. -/
theorem keyEdge_same {m0 m1 : Memory} {o : OpNum} (h : key m0 o = key m1 o) (op : Operator) : keyEdge m0 m1 o op = op := by
  unfold keyEdge
  rw [h]
  cases key m1 o <;> rfl

/-- An operator after `RegWrite` (R140). -/
theorem regWrite_op (c : Chip) (a : BitVec 9) (v : Byte) (o : OpNum) :
    (regWrite c a v).ops[o] = keyEdge c.regs (c.regs.write a.toNat v) o c.ops[o] := mapOps_get ..

/-- A `WRITE` at a valid address is `RegWrite` there (R122). -/
theorem chipWrite_wideAddr (c : Chip) (a : BitVec 9) (v : Byte) : chipWrite c (wideAddr a) v = regWrite c a v := by
  have ha : (wideAddr a).toNat = a.toNat := by
    simp only [wideAddr, BitVec.toNat_setWidth]
    exact Nat.mod_eq_of_lt (by have := a.isLt; omega)
  have hx : (wideAddr a).extractLsb' 0 9 = a := by
    apply BitVec.eq_of_toNat_eq
    simp only [BitVec.extractLsb'_toNat, ha, Nat.shiftRight_zero]
    exact Nat.mod_eq_of_lt a.isLt
  have hlt : ¬ addrMax < (wideAddr a).toNat := by
    have := a.isLt
    simp only [ha, addrMax]
    omega
  rw [chipWrite, if_neg hlt, hx]

/-- Everything a `WRITE` from the host can do: it goes on only when initialised, and then to one next state. -/
theorem hostWrite_next {addr : BitVec 16} {v : Byte} {s t : State} (h : hostWrite addr v s = .next t) :
    s.chip.init = true ∧ t = s.completed (chipWrite s.chip addr v) .void := by
  obtain ⟨hi, h⟩ := whenInit_next h
  exact ⟨hi, by cases h; rfl⟩

theorem hostWrite_of_init {s : State} (hi : s.chip.init = true) (addr : BitVec 16) (v : Byte) :
    hostWrite addr v s = .next (s.completed (chipWrite s.chip addr v) .void) := whenInit_of_init hi _

/-! ## The passes of a tick -/

/-- An operator after pass 1 (R180). -/
theorem pass1_get (c : Chip) (o : OpNum) :
    (pass1 c)[o] = envAdvance c.regs c.timer o (phaseAdvance c.regs c.vibPos o c.ops[o]) := mapOps_get ..

/-- One turn of pass 2 moves the samples of its own operator only. -/
theorem sampleOp_get (m : Memory) (tp : BitVec 8) (n : BitVec 23) (ops : Vector Operator 36) (o p : OpNum) :
    (sampleOp m tp n ops o)[p] =
      if p = o then { ops[o] with prevOut := ops[o].out, out := opSample m tp n ops o } else ops[p] := by
  unfold sampleOp
  by_cases h : p = o
  · subst h; simp
  · have : o.val ≠ p.val := fun e => h (Fin.ext e.symm)
    simp [h, this]

/-- Pass 2 leaves the phase, the stage and the level of every operator. -/
theorem foldl_sampleOp_frame (m : Memory) (tp : BitVec 8) (n : BitVec 23) (l : List OpNum) (ops : Vector Operator 36)
    (p : OpNum) :
    (l.foldl (sampleOp m tp n) ops)[p].phase = ops[p].phase ∧ (l.foldl (sampleOp m tp n) ops)[p].stage = ops[p].stage ∧
      (l.foldl (sampleOp m tp n) ops)[p].level = ops[p].level := by
  induction l generalizing ops with
  | nil => exact ⟨rfl, rfl, rfl⟩
  | cons o l ih =>
    obtain ⟨h1, h2, h3⟩ := ih (sampleOp m tp n ops o)
    rw [List.foldl_cons]
    refine ⟨h1.trans ?_, h2.trans ?_, h3.trans ?_⟩ <;> rw [sampleOp_get] <;> split <;> simp_all

@[simp] theorem pass2_phase (c : Chip) (ops : Vector Operator 36) (i : Nat) (h : i < 36) :
    (pass2 c ops)[i].phase = ops[i].phase := (foldl_sampleOp_frame _ _ _ _ _ ⟨i, h⟩).1
@[simp] theorem pass2_stage (c : Chip) (ops : Vector Operator 36) (i : Nat) (h : i < 36) :
    (pass2 c ops)[i].stage = ops[i].stage := (foldl_sampleOp_frame _ _ _ _ _ ⟨i, h⟩).2.1
@[simp] theorem pass2_level (c : Chip) (ops : Vector Operator 36) (i : Nat) (h : i < 36) :
    (pass2 c ops)[i].level = ops[i].level := (foldl_sampleOp_frame _ _ _ _ _ ⟨i, h⟩).2.2

/-! ## The tick loop -/

/-- The loop writes neither `init`, nor the register file, nor the ratio, nor the output buffer. -/
theorem tickLoop_frame (n : Nat) (c : Chip) :
    (tickLoop n c).init = c.init ∧ (tickLoop n c).regs = c.regs ∧ (tickLoop n c).rateratio = c.rateratio ∧
      (tickLoop n c).outbuf = c.outbuf := by
  induction n generalizing c with
  | zero => exact ⟨rfl, rfl, rfl, rfl⟩
  | succ n ih =>
    unfold tickLoop
    split
    · simpa using ih (resampleTick c)
    · exact ⟨rfl, rfl, rfl, rfl⟩

@[simp] theorem tickLoop_init (n : Nat) (c : Chip) : (tickLoop n c).init = c.init := (tickLoop_frame n c).1
@[simp] theorem tickLoop_regs (n : Nat) (c : Chip) : (tickLoop n c).regs = c.regs := (tickLoop_frame n c).2.1
@[simp] theorem tickLoop_rateratio (n : Nat) (c : Chip) : (tickLoop n c).rateratio = c.rateratio :=
  (tickLoop_frame n c).2.2.1

/-- One turn takes the ratio from the position. -/
theorem resampleTick_samplecnt_toNat {c : Chip} (h : c.rateratio.toNat ≤ c.samplecnt.toNat) :
    (resampleTick c).samplecnt.toNat = c.samplecnt.toNat - c.rateratio.toNat := by
  have hw : (c.rateratio.setWidth 28).toNat = c.rateratio.toNat := by
    simp only [BitVec.toNat_setWidth]
    exact Nat.mod_eq_of_lt (by have := c.rateratio.isLt; omega)
  rw [resampleTick_samplecnt, BitVec.toNat_sub_of_le (by rw [BitVec.le_def, hw]; exact h), hw]

/-- A property that every turn keeps holds after the loop. -/
theorem tickLoop_keeps {P : Chip → Prop} (hP : ∀ c, P c → P (resampleTick c)) (n : Nat) (c : Chip) (h : P c) :
    P (tickLoop n c) := by
  induction n generalizing c with
  | zero => exact h
  | succ n ih =>
    unfold tickLoop
    split
    · exact ih _ (hP c h)
    · exact h

@[simp] theorem chipGen_init (c : Chip) : (chipGen c).init = c.init := by simp [chipGen]
@[simp] theorem chipGen_regs (c : Chip) : (chipGen c).regs = c.regs := by simp [chipGen]
@[simp] theorem chipGen_rateratio (c : Chip) : (chipGen c).rateratio = c.rateratio := by simp [chipGen]

/-! ## `GEN` and the step -/

/-- Everything `GEN` can do when it goes on. -/
theorem execGen_next {s t : State} (h : execGen s = .next t) :
    s.chip.init = true ∧ s.chip.rateratio ≠ 0#27 ∧
      t = s.completed (chipGen s.chip) (.frame (chipGen s.chip).outbuf) := by
  obtain ⟨hi, h⟩ := whenInit_next h
  split at h
  · cases h
  · exact ⟨hi, ‹_›, by cases h; rfl⟩

/-- Everything a step can do: nothing when no operation is pending, else the next operation. -/
theorem step_cases {s t : State} (h : step s = .next t) :
    (s.pending = [] ∧ t = s) ∨
      ∃ w rest, s.pending = w :: rest ∧ exec (decodeWord w) { s with pending := rest } = .next t := by
  unfold step at h
  split at h
  · exact .inl ⟨‹_›, by cases h; rfl⟩
  · exact .inr ⟨_, _, ‹_›, h⟩

end Sys2Proof.Machine
end

