-- ==== Sys2Proof/Laws/PerInstr.lean ====
section
/-! SUPPORT. One family of lemmas, one for each constructor of `Instr`: the operation code of its canonical word (R80, R81)
and the ignored byte of a `WRITE`, emitted as zero (R83, R107). -/

namespace Sys2Proof.Laws

/-- The operation code of R81. -/
def cmdOf : Instr → BitVec 2
  | .reset _ => 0#2
  | .gen => 2#2
  | .getbuf => 3#2
  | .writeRsvd _ _ => 1#2
  | .writeReg01 _ => 1#2
  | .writeReg02 _ => 1#2
  | .writeReg03 _ => 1#2
  | .writeReg04 _ => 1#2
  | .writeNts _ => 1#2
  | .writeConn4 _ => 1#2
  | .writeNew _ => 1#2
  | .writeOp20 _ _ => 1#2
  | .writeOp40 _ _ => 1#2
  | .writeOp60 _ _ => 1#2
  | .writeOp80 _ _ => 1#2
  | .writeOpE0 _ _ => 1#2
  | .writeChA0 _ _ => 1#2
  | .writeChB0 _ _ => 1#2
  | .writeChC0 _ _ => 1#2
  | .writeBd _ => 1#2
  | .writeOor _ _ => 1#2

/-- The code stands in `W[33:32]`, and a `WRITE` has `W[31:24]` zero. -/
def EncodeCmd.Statement (i : Instr) : Prop :=
  (encode i).extractLsb' 32 2 = cmdOf i ∧ (cmdOf i = 1#2 → (encode i).extractLsb' 24 8 = 0#8)

/-- The operation code of a host word, whatever its payload. -/
theorem hostWord_cmd (c : BitVec 2) (p : BitVec 32) : (hostWord c p).extractLsb' 32 2 = c := by
  apply BitVec.eq_of_toNat_eq
  have := p.isLt
  have := c.isLt
  rw [BitVec.extractLsb'_toNat, hostWord, BitVec.toNat_append, Nat.shiftLeft_eq, Nat.mul_comm,
    ← Nat.two_pow_add_eq_or_of_lt (by omega), Nat.shiftRight_eq_div_pow]
  omega

/-- The payload of a host word. -/
theorem hostWord_payload (c : BitVec 2) (p : BitVec 32) : (hostWord c p).extractLsb' 0 32 = p := by
  apply BitVec.eq_of_toNat_eq
  have := p.isLt
  have := c.isLt
  rw [BitVec.extractLsb'_toNat, hostWord, BitVec.toNat_append, Nat.shiftLeft_eq, Nat.mul_comm,
    ← Nat.two_pow_add_eq_or_of_lt (by omega), Nat.shiftRight_zero]
  omega

/-- A canonical `WRITE` word as a number. -/
theorem writeWord_toNat (a : BitVec 16) (v : Byte) :
    (writeWord a v).toNat = 4294967296 + a.toNat * 256 + v.toNat := by
  have := a.isLt
  have := v.isLt
  have h : (0#8 ++ a ++ v : BitVec 32).toNat = a.toNat * 256 + v.toNat := by
    rw [BitVec.toNat_append, BitVec.toNat_append]
    simp only [BitVec.toNat_ofNat, Nat.zero_mod, Nat.zero_shiftLeft, Nat.zero_or]
    rw [Nat.shiftLeft_eq, Nat.mul_comm, ← Nat.two_pow_add_eq_or_of_lt (by omega)]
  rw [writeWord, hostWord, BitVec.toNat_append, h, Nat.shiftLeft_eq, Nat.mul_comm,
    ← Nat.two_pow_add_eq_or_of_lt (by omega)]
  simp
  omega

/-- Every canonical `WRITE` word has the code of R81 and a zero byte in `W[31:24]`. -/
theorem writeWord_cmd (a : BitVec 16) (v : Byte) :
    (writeWord a v).extractLsb' 32 2 = 1#2 ∧ ((1#2 : BitVec 2) = 1#2 → (writeWord a v).extractLsb' 24 8 = 0#8) := by
  have := a.isLt
  have := v.isLt
  refine ⟨?_, fun _ => ?_⟩ <;> apply BitVec.eq_of_toNat_eq <;>
    rw [BitVec.extractLsb'_toNat, writeWord_toNat, Nat.shiftRight_eq_div_pow] <;> simp <;> omega

theorem EncodeCmd.reset (rate : BitVec 32) : EncodeCmd.Statement (.reset rate) :=
  ⟨hostWord_cmd _ _, fun h => absurd h (by simp [cmdOf])⟩
theorem EncodeCmd.gen : EncodeCmd.Statement .gen := ⟨rfl, fun h => absurd h (by simp [cmdOf])⟩
theorem EncodeCmd.getbuf : EncodeCmd.Statement .getbuf := ⟨rfl, fun h => absurd h (by simp [cmdOf])⟩
theorem EncodeCmd.writeRsvd (a : BitVec 9) (v : Byte) : EncodeCmd.Statement (.writeRsvd a v) := writeWord_cmd _ v
theorem EncodeCmd.writeReg01 (v : Byte) : EncodeCmd.Statement (.writeReg01 v) := writeWord_cmd _ v
theorem EncodeCmd.writeReg02 (v : Byte) : EncodeCmd.Statement (.writeReg02 v) := writeWord_cmd _ v
theorem EncodeCmd.writeReg03 (v : Byte) : EncodeCmd.Statement (.writeReg03 v) := writeWord_cmd _ v
theorem EncodeCmd.writeReg04 (v : Byte) : EncodeCmd.Statement (.writeReg04 v) := writeWord_cmd _ v
theorem EncodeCmd.writeNts (v : Byte) : EncodeCmd.Statement (.writeNts v) := writeWord_cmd _ v
theorem EncodeCmd.writeConn4 (v : Byte) : EncodeCmd.Statement (.writeConn4 v) := writeWord_cmd _ v
theorem EncodeCmd.writeNew (v : Byte) : EncodeCmd.Statement (.writeNew v) := writeWord_cmd _ v
theorem EncodeCmd.writeOp20 (o : OpNum) (v : Byte) : EncodeCmd.Statement (.writeOp20 o v) := writeWord_cmd _ v
theorem EncodeCmd.writeOp40 (o : OpNum) (v : Byte) : EncodeCmd.Statement (.writeOp40 o v) := writeWord_cmd _ v
theorem EncodeCmd.writeOp60 (o : OpNum) (v : Byte) : EncodeCmd.Statement (.writeOp60 o v) := writeWord_cmd _ v
theorem EncodeCmd.writeOp80 (o : OpNum) (v : Byte) : EncodeCmd.Statement (.writeOp80 o v) := writeWord_cmd _ v
theorem EncodeCmd.writeOpE0 (o : OpNum) (v : Byte) : EncodeCmd.Statement (.writeOpE0 o v) := writeWord_cmd _ v
theorem EncodeCmd.writeChA0 (c : ChanNum) (v : Byte) : EncodeCmd.Statement (.writeChA0 c v) := writeWord_cmd _ v
theorem EncodeCmd.writeChB0 (c : ChanNum) (v : Byte) : EncodeCmd.Statement (.writeChB0 c v) := writeWord_cmd _ v
theorem EncodeCmd.writeChC0 (c : ChanNum) (v : Byte) : EncodeCmd.Statement (.writeChC0 c v) := writeWord_cmd _ v
theorem EncodeCmd.writeBd (v : Byte) : EncodeCmd.Statement (.writeBd v) := writeWord_cmd _ v
theorem EncodeCmd.writeOor (addr : BitVec 16) (v : Byte) : EncodeCmd.Statement (.writeOor addr v) := writeWord_cmd _ v

end Sys2Proof.Laws
end

