-- ==== Sys2Proof/Tests/Slice0.lean ====
section
/-! SUPPORT. Tests: ill-formed terms refused, words written out from the spec's encoding, one step of each operation with the
result the spec gives it, and for every statement with hypotheses a state that meets them. -/

namespace Sys2Proof.Tests

open Sys2Proof.Machine

set_option maxRecDepth 20000

/-! ## Well-formedness -/

/-- Addresses of the map R86 that are not reserved: a global, an operator and a channel register. -/
theorem test_wf_refuses_named_as_reserved :
    (Instr.writeRsvd 0x0BD#9 0#8).wf = false ∧ (Instr.writeRsvd 0x135#9 0#8).wf = false ∧
      (Instr.writeRsvd 0x1C8#9 0#8).wf = false := by decide

/-- The last valid address is not out of range, the next one is (R122 corner cases). -/
theorem test_wf_refuses_valid_as_out_of_range :
    (Instr.writeOor 0x1FF#16 0#8).wf = false ∧ (Instr.writeOor 0x200#16 0#8).wf = true := by decide

/-- A number of 35 bits is no host word (R80). -/
theorem test_decode_rejects_35_bits : decode (2 ^ 34) = .error .notAHostWord ∧ decodeTableWord 40 (2 ^ 34) = none := by decide

/-! ## Decoding: one word for each constructor, from V-ENC, V-ADDR and the programs of 95_test_vectors.md -/

theorem test_decode_host_operations :
    decodeWord 0x00000AC44#34 = .reset 44100#32 ∧ decodeWord 0x2DEADBEEF#34 = .gen ∧
      decodeWord 0x3FFFFFFFF#34 = .getbuf := by decide

theorem test_decode_global_registers :
    decodeWord 0x100000120#34 = .writeReg01 0x20#8 ∧ decodeWord 0x100000255#34 = .writeReg02 0x55#8 ∧
      decodeWord 0x1000003AA#34 = .writeReg03 0xAA#8 ∧ decodeWord 0x100000480#34 = .writeReg04 0x80#8 ∧
      decodeWord 0x100000840#34 = .writeNts 0x40#8 ∧ decodeWord 0x10001043F#34 = .writeConn4 0x3F#8 ∧
      decodeWord 0x100010501#34 = .writeNew 0x01#8 ∧ decodeWord 0x10000BD3F#34 = .writeBd 0x3F#8 := by decide

theorem test_decode_operator_registers :
    decodeWord 0x100013521#34 = .writeOp20 35 0x21#8 ∧ decodeWord 0x10000553F#34 = .writeOp40 17 0x3F#8 ∧
      decodeWord 0x1000063E8#34 = .writeOp60 3 0xE8#8 ∧ decodeWord 0x10000832A#34 = .writeOp80 3 0x2A#8 ∧
      decodeWord 0x10001F505#34 = .writeOpE0 35 0x05#8 := by decide

theorem test_decode_channel_registers :
    decodeWord 0x10001A041#34 = .writeChA0 9 0x41#8 ∧ decodeWord 0x1AB00B032#34 = .writeChB0 0 0x32#8 ∧
      decodeWord 0x10001C831#34 = .writeChC0 17 0x31#8 := by decide

/-- The neighbours that V-ADDR calls reserved, and the out-of-range words. -/
theorem test_decode_reserved_and_out_of_range :
    decodeWord 0x100010800#34 = .writeRsvd 0x108#9 0x00#8 ∧ decodeWord 0x10001BD3F#34 = .writeRsvd 0x1BD#9 0x3F#8 ∧
      decodeWord 0x10000F600#34 = .writeRsvd 0x0F6#9 0x00#8 ∧ decodeWord 0x10000A900#34 = .writeRsvd 0x0A9#9 0x00#8 ∧
      decodeWord 0x10001FFAA#34 = .writeRsvd 0x1FF#9 0xAA#8 ∧ decodeWord 0x10002B020#34 = .writeOor 0x2B0#16 0x20#8 := by
  decide

/-- The words of R84 and R107, from the other side. -/
theorem test_encode_words :
    encode .gen = 0x200000000#34 ∧ encode .getbuf = 0x300000000#34 ∧ encode (.writeChB0 0 0x32#8) = 0x10000B032#34 ∧
      encode (.writeOor 0xFFFF#16 0xFF#8) = 0x100FFFFFF#34 := by decide

/-! ## Small states -/

/-- A chip right after `RESET 49716` but for its register file and operator `o`. -/
def chipWith (m : Memory) (o : OpNum) (op : Operator) : Chip :=
  { State.reset.chip with regs := m, ops := State.reset.chip.ops.set o op }

/-- The same as a whole state. -/
def stateWith (m : Memory) (o : OpNum) (op : Operator) : State := { State.reset with chip := chipWith m o op }

/-- A state with the given register file and all operators as after `RESET`. -/
def stateOf (m : Memory) : State := stateWith m 0 Operator.zero

/-- An operator at a stage and level, the rest zero. -/
def opAt (st : Stage) (lv : BitVec 9) : Operator := { Operator.zero with stage := st, level := lv }

/-- What one operation leaves, read through `f`. -/
def after {α : Type} (i : Instr) (s : State) (f : State → α) : Option α :=
  match exec i s with
  | .next t => some (f t)
  | _ => none

/-- The stage and level of the operators in `l`. -/
def stages (l : List OpNum) (t : State) : List (Stage × BitVec 9) :=
  l.map fun o => ((t.chip.ops[o]).stage, (t.chip.ops[o]).level)

/-! ## One step of each operation -/

/-- R121, example. -/
theorem test_reset_44100 :
    after (.reset 44100#32) State.reset (fun t => (t.chip.rateratio, t.chip.noise)) = some (908#27, 1#23) := by decide

/-- R126, R283: every rate below 49 gives the ratio 1; and log entry 3: `State.reset` is what `RESET 49716` leaves. -/
theorem test_reset_clamps_low_rates :
    after (.reset 0#32) State.reset (fun t => t.chip.rateratio) = some 1#27 ∧
      after (.reset 49716#32) State.reset id = some State.reset := by decide

/-- P1 after `GEN` 2: operators 0 and 3 have run tick 1. -/
def p1AfterGen2 : State :=
  let op : Operator := { phase := 4616#19, stage := .sustain, level := 511#9, out := 238, prevOut := 0 }
  { State.reset with chip := { State.reset.chip with
      regs := [(0x020, 0x21#8), (0x023, 0x21#8), (0x060, 0xF0#8), (0x063, 0xF0#8), (0x080, 0x0F#8), (0x083, 0x0F#8),
        (0x0A0, 0x41#8), (0x0B0, 0x32#8), (0x0C0, 0x01#8)]
      ops := (State.reset.chip.ops.set 0 op).set 3 op
      timer := 1#14, noise := 0x400000#23, samplecnt := 1024#28, cur := #v[476#16, 476#16, 0#16, 0#16] } }

/-- P1, `GEN` 3: the frame of tick 1, and the samples of tick 2. -/
theorem test_gen_p1 :
    after .gen p1AfterGen2 (fun t => (t.reply, t.chip.cur, (t.chip.ops[3]).out)) =
      some (.frame #v[476#16, 476#16, 0#16, 0#16], #v[926#16, 926#16, 0#16, 0#16], 463) := by decide

/-- R285, third and fourth example: the interpolation truncates toward zero. -/
theorem test_interpolate_truncates :
    (interpolate { State.reset.chip with rateratio := 908#27, samplecnt := 907#28, old := #v[100#16, 0#16, 0#16, 0#16],
                                         cur := #v[200#16, 0#16, 0#16, 0#16] } 0).toInt = 199 ∧
      (interpolate { State.reset.chip with rateratio := 908#27, samplecnt := 454#28, old := #v[-3#16, 0#16, 0#16, 0#16] }
        0).toInt = -1 := by decide

/-- R124. -/
theorem test_getbuf_returns_base :
    exec .getbuf State.reset = .next { State.reset with reply := .address Config.outbufBase } := rfl

/-- R164, example. -/
theorem test_writeRsvd_stores :
    after (.writeRsvd 0x1FF#9 0xAA#8) State.reset (fun t => t.chip) =
      some { State.reset.chip with regs := [(0x1FF, 0xAA#8)] } := by decide

/-- R148, example; R149 to R151 in the same way. -/
theorem test_writeReg01_stores :
    after (.writeReg01 0x20#8) State.reset (fun t => t.chip) =
      some { State.reset.chip with regs := [(0x001, 0x20#8)] } := by decide

theorem test_writeReg02_stores :
    after (.writeReg02 0x20#8) State.reset (fun t => t.chip) =
      some { State.reset.chip with regs := [(0x002, 0x20#8)] } := by decide

theorem test_writeReg03_stores :
    after (.writeReg03 0x20#8) State.reset (fun t => t.chip) =
      some { State.reset.chip with regs := [(0x003, 0x20#8)] } := by decide

theorem test_writeReg04_stores :
    after (.writeReg04 0x20#8) State.reset (fun t => t.chip) =
      some { State.reset.chip with regs := [(0x004, 0x20#8)] } := by decide

/-- V-RATE: `FNUM` 0x241, `BLOCK` 4: with `NTS` = 1 `ksv` is 8, and 9 without. -/
theorem test_writeNts_selects_fnum_bit :
    after (.writeNts 0x40#8) (stateOf [(0x0A0, 0x41#8), (0x0B0, 0x12#8)]) (fun t => ksv t.chip.regs 0) = some 8 ∧
      ksv [(0x0A0, 0x41#8), (0x0B0, 0x12#8)] 0 = 9 := by decide

/-- R153, example: operators 6 and 9 follow `KON(0)`. -/
theorem test_writeConn4_keys_second_channel :
    after (.writeConn4 0x01#8) (stateOf [(0x0B0, 0x20#8), (0x105, 0x01#8)]) (stages [6, 9, 7]) =
      some [(.attack, 0#9), (.attack, 0#9), (.off, 0#9)] := by decide

/-- R153, corner case: with `NEW` = 0 the byte is stored and nothing else changes. -/
theorem test_writeConn4_without_new :
    after (.writeConn4 0x01#8) (stateOf [(0x0B0, 0x20#8)]) (fun t => t.chip) =
      some (stateOf [(0x0B0, 0x20#8), (0x104, 0x01#8)]).chip := by decide

/-- R154, example. -/
theorem test_writeNew_no_pairs :
    after (.writeNew 0x01#8) State.reset (fun t => t.chip) =
      some { State.reset.chip with regs := [(0x105, 0x01#8)] } := by decide

/-- R154 with R153: a pair already enabled comes into effect, and goes out again. -/
theorem test_writeNew_moves_pairs :
    after (.writeNew 0x01#8) (stateOf [(0x0B0, 0x20#8), (0x104, 0x01#8)]) (stages [6, 9]) =
        some [(.attack, 0#9), (.attack, 0#9)] ∧
      after (.writeNew 0x00#8) (stateWith [(0x0B0, 0x20#8), (0x104, 0x01#8), (0x105, 0x01#8)] 6 (opAt .sustain 300#9))
        (stages [6]) = some [(.release, 300#9)] := by decide

/-- R155, example. -/
theorem test_writeOp20_fields :
    after (.writeOp20 3 0x21#8) State.reset (fun t => (fEGT t.chip.regs 3, fMULT t.chip.regs 3, fAM t.chip.regs 3,
      fVIB t.chip.regs 3, fKSR t.chip.regs 3)) = some (true, 1#4, false, false, false) := by decide

/-- R156, example. -/
theorem test_writeOp40_fields :
    after (.writeOp40 3 0x3F#8) State.reset (fun t => (fTL t.chip.regs 3, fKSL t.chip.regs 3)) = some (63#6, 0#2) := by decide

/-- R157, example. -/
theorem test_writeOp60_fields :
    after (.writeOp60 3 0xF0#8) State.reset (fun t => (fAR t.chip.regs 3, fDR t.chip.regs 3)) = some (15#4, 0#4) := by decide

/-- R158, example; and R104 for `SL` = 15. -/
theorem test_writeOp80_fields :
    after (.writeOp80 3 0x0F#8) State.reset (fun t => (sustainTarget t.chip.regs 3, fRR t.chip.regs 3)) = some (511, 15#4) ∧
      after (.writeOp80 3 0xF0#8) State.reset (fun t => sustainTarget t.chip.regs 3) = some 15 := by decide

/-- R159, example. -/
theorem test_writeOpE0_waveform :
    after (.writeOpE0 3 0x05#8) State.reset (fun t => (fWS t.chip.regs 3, wsEff t.chip.regs 3)) = some (5#3, 1#3) ∧
      after (.writeOpE0 3 0x05#8) (stateOf [(0x105, 0x01#8)]) (fun t => wsEff t.chip.regs 3) = some 5#3 := by decide

/-- R160, example, under high bits already set. -/
theorem test_writeChA0_low_byte :
    after (.writeChA0 0 0x41#8) (stateOf [(0x0B0, 0x12#8)]) (fun t => fFNUM t.chip.regs 0) = some 0x241#10 := by decide

/-- V-KEY K15: operator 3 has the instant attack, operator 0 (`AR` = 0) has not. -/
theorem test_writeChB0_key_on :
    after (.writeChB0 0 0x3F#8) (stateOf [(0x023, 0x10#8), (0x063, 0xE0#8), (0x0A0, 0xFF#8)]) (stages [0, 3, 1]) =
      some [(.attack, 0#9), (.decay, 511#9), (.off, 0#9)] := by decide

/-- R145, R146: key-off keeps the level and the phase. -/
theorem test_writeChB0_key_off :
    after (.writeChB0 0 0x12#8) (stateWith [(0x0B0, 0x32#8)] 3 { opAt .attack 292#9 with phase := 9232#19 })
      (fun t => t.chip.ops[3]) = some { opAt .release 292#9 with phase := 9232#19 } := by decide

/-- R162, example. -/
theorem test_writeChC0_fields :
    after (.writeChC0 0 0x31#8) State.reset (fun t => (fOUT t.chip.regs 0 0, fOUT t.chip.regs 0 1, fOUT t.chip.regs 0 2,
      fOUT t.chip.regs 0 3, fFB t.chip.regs 0, fCNT t.chip.regs 0)) = some (true, true, false, false, 0#3, true) := by decide

/-- R163, example: K8 of V-KEY. -/
theorem test_writeBd_keys_bass_drum :
    after (.writeBd 0x30#8) State.reset (stages [12, 15, 13]) =
      some [(.attack, 0#9), (.attack, 0#9), (.off, 0#9)] := by decide

/-- K13 of V-KEY: `RYT` off with the `HH` bit left on is a key-off. -/
theorem test_writeBd_rhythm_off :
    after (.writeBd 0x01#8) (stateWith [(0x0BD, 0x21#8)] 13 (opAt .attack 0#9)) (stages [13]) = some [(.release, 0#9)] := by
  decide

/-- R165, example: address 0x2B0 does not key channel 0. -/
theorem test_writeOor_ignored :
    after (.writeOor 0x2B0#16 0x20#8) State.reset (fun t => t.chip) = some State.reset.chip := by decide

/-- R125. -/
theorem test_refused_before_reset :
    exec .gen { State.reset with chip := { State.reset.chip with init := false } } = .refused .beforeReset := rfl

/-- The step runs the word `withFetchWord` placed: `WRITE 0x0B0, 0x32` keys operators 0 and 3 (R122, example). -/
theorem test_step_runs_table_word :
    (match step (State.reset.withFetchWord 40 0x10000B032) with
      | .next t => some (stages [0, 3, 1] t, t.pending)
      | _ => none) = some ([(.attack, 0#9), (.attack, 0#9), (.off, 0#9)], []) := by decide

/-! ## Parts of the tick, from the tables of 95_test_vectors.md and the examples of the rules -/

/-- R201, R205 and R208, samples at `a` = 0. -/
theorem test_wave_samples :
    ([0#10, 1#10, 127#10, 128#10, 255#10, 512#10, 767#10, 1023#10].map fun p => wave 0#3 p 0) =
        [12, 37, 2880, 2896, 4084, -13, -4085, -13] ∧
      ([1#10, 127#10, 128#10, 255#10, 256#10, 383#10, 511#10, 512#10].map fun p => wave 4#3 p 0) =
        [62, 4084, 4084, 12, -13, -4085, -13, 0] ∧
      ([1#10, 127#10, 384#10, 512#10, 767#10, 895#10, 1023#10].map fun p => wave 7#3 p 0) =
        [3998, 261, 0, -1, -16, -256, -4085] := by decide

/-- V-EGINC, rates 45, 55 and 58. -/
theorem test_egInc_patterns :
    ([0#14, 2#14, 8#14, 10#14, 4#14].map fun t => egInc t 45) = [0, 1, 1, 1, 0] ∧
      ([0#14, 5#14, 6#14, 7#14].map fun t => egInc t 55) = [2, 2, 1, 1] ∧
      ([0#14, 1#14, 2#14, 3#14, 4#14].map fun t => egInc t 58) = [4, 4, 2, 2, 4] := by decide

/-- V-VIB, first row, `DVB` = 1. -/
theorem test_phaseInc_vibrato :
    ([0#3, 1#3, 2#3, 3#3, 5#3, 6#3].map fun vp =>
      phaseInc [(0x020, 0x61#8), (0x0A0, 0x41#8), (0x0B0, 0x12#8), (0x0BD, 0x40#8)] vp 0) =
      [4616, 4632, 4648, 4632, 4600, 4584] := by decide

/-! ## Witnesses: states and operands that meet the hypotheses of the statements -/

/-- All three clauses of `StepExecutesThePendingOperation`. -/
theorem witness_StepExecutesThePendingOperation :
    State.reset.pending = [] ∧ ({ State.reset with pending := [0x200000000#34] } : State).pending = 0x200000000#34 :: [] ∧
      decodeTableWord 40 0x3FFFFFFFF = some .getbuf := by decide

theorem witness_DecodeOfEncode :
    (Instr.writeOor 0x200#16 0#8).wf = true ∧ (Instr.writeRsvd 0x000#9 0#8).wf = true ∧
      (Instr.writeRsvd 0x1FF#9 0#8).wf = true ∧ (Instr.writeOp20 35 0xFF#8).wf = true := by decide

theorem witness_RefusedBeforeTheFirstReset :
    ({ State.reset with chip := { State.reset.chip with init := false } } : State).chip.init = false ∧
      ∀ rate, Instr.gen ≠ .reset rate := ⟨rfl, fun _ h => nomatch h⟩

/-- The premises of the loop and of one turn, the position being just at the ratio. -/
theorem witness_GenIsTheResamplerLoop :
    p1AfterGen2.chip.init = true ∧ p1AfterGen2.chip.rateratio ≠ 0#27 ∧
      p1AfterGen2.chip.rateratio.toNat ≤ p1AfterGen2.chip.samplecnt.toNat := by decide

theorem witness_GenInterpolatesBetweenTwoFrames : p1AfterGen2.chip.init = true ∧ p1AfterGen2.chip.rateratio ≠ 0#27 := by
  decide

theorem witness_GenLeavesTheRegisterFile : p1AfterGen2.chip.init = true ∧ p1AfterGen2.chip.rateratio ≠ 0#27 := by decide

theorem witness_GetbufReturnsTheBase : State.reset.chip.init = true := rfl

theorem witness_OutOfRangeWriteIsIgnored :
    State.reset.chip.init = true ∧ 511 < (0x200#16).toNat ∧ 511 < (0xFFFF#16).toNat := by decide

theorem witness_ValidWriteStoresAndActsOnKeyEdges :
    p1AfterGen2.chip.init = true ∧ (0x000#16).toNat ≤ 511 ∧ (0x1FF#16).toNat ≤ 511 := by decide

theorem witness_OnlyFiveKindsOfRegisterMoveKeys :
    (0x0BC#9 : BitVec 9) ≠ 0x0BD#9 ∧ (0x0BC#9 : BitVec 9) ≠ 0x104#9 ∧ (0x0BC#9 : BitVec 9) ≠ 0x105#9 ∧
      ∀ c : ChanNum, (0x0BC#9 : BitVec 9) ≠ chanAddr 0xB0 c := by decide

theorem witness_RewritingTheSameByteChangesNothing :
    p1AfterGen2.chip.init = true ∧ p1AfterGen2.chip.regs.wf = true ∧ (0x020#16).toNat ≤ 511 ∧ (0x1FF#16).toNat ≤ 511 := by
  decide

/-- An initialised state with bytes in its register file, for every statement about one `WRITE` that asks no more. -/
theorem witness_FunctionlessRegistersOnlyStore : p1AfterGen2.chip.init = true ∧ p1AfterGen2.chip.regs.wf = true := by decide

theorem witness_ReservedWriteOnlyStores :
    p1AfterGen2.chip.init = true ∧ p1AfterGen2.chip.regs.wf = true ∧ isReservedAddr 0x000#9 = true ∧
      isReservedAddr 0x1FF#9 = true := by decide

theorem witness_NoteSelectWrite : p1AfterGen2.chip.init = true ∧ p1AfterGen2.chip.regs.wf = true :=
  witness_FunctionlessRegistersOnlyStore
theorem witness_OperatorModeWrite : p1AfterGen2.chip.init = true ∧ p1AfterGen2.chip.regs.wf = true :=
  witness_FunctionlessRegistersOnlyStore
theorem witness_OperatorLevelWrite : p1AfterGen2.chip.init = true ∧ p1AfterGen2.chip.regs.wf = true :=
  witness_FunctionlessRegistersOnlyStore
theorem witness_OperatorAttackDecayWrite : p1AfterGen2.chip.init = true ∧ p1AfterGen2.chip.regs.wf = true :=
  witness_FunctionlessRegistersOnlyStore
theorem witness_OperatorSustainReleaseWrite : p1AfterGen2.chip.init = true ∧ p1AfterGen2.chip.regs.wf = true :=
  witness_FunctionlessRegistersOnlyStore
theorem witness_OperatorWaveformWrite : p1AfterGen2.chip.init = true ∧ p1AfterGen2.chip.regs.wf = true :=
  witness_FunctionlessRegistersOnlyStore
theorem witness_ChannelFrequencyWrite : p1AfterGen2.chip.init = true ∧ p1AfterGen2.chip.regs.wf = true :=
  witness_FunctionlessRegistersOnlyStore
theorem witness_ChannelRoutingWrite : p1AfterGen2.chip.init = true ∧ p1AfterGen2.chip.regs.wf = true :=
  witness_FunctionlessRegistersOnlyStore
theorem witness_ChannelKeyWrite : p1AfterGen2.chip.init = true ∧ p1AfterGen2.chip.regs.wf = true :=
  witness_FunctionlessRegistersOnlyStore
theorem witness_RhythmRegisterWrite : p1AfterGen2.chip.init = true ∧ p1AfterGen2.chip.regs.wf = true :=
  witness_FunctionlessRegistersOnlyStore

/-- The premise of the last clause, on an operator of a second channel that the write does not move. -/
theorem witness_FourOpEnableWrite :
    p1AfterGen2.chip.init = true ∧ p1AfterGen2.chip.regs.wf = true ∧
      pairSecond (p1AfterGen2.chip.regs.write 0x104 0x3F#8) (chOf 6) = pairSecond p1AfterGen2.chip.regs (chOf 6) := by decide

theorem witness_NewModeWrite :
    p1AfterGen2.chip.init = true ∧ p1AfterGen2.chip.regs.wf = true ∧
      pairSecond (p1AfterGen2.chip.regs.write 0x105 0x01#8) (chOf 29) = pairSecond p1AfterGen2.chip.regs (chOf 29) := by decide

/-- The highest tremolo position, at a tick that steps it, with a noise register about to shift its only bit out. -/
theorem witness_TickStepsTheGlobalCounters :
    ({ State.reset.chip with tremPos := 209#8, timer := 63#14 } : Chip).tremPos.toNat < 210 ∧
      State.reset.chip.noise ≠ 0#23 := by decide

/-- The premises on `VIB`, and each premise of the last clause alone: `VIB` = 0, and `VIB` = 1 at positions 0 and 4. -/
theorem witness_PhaseStepFollowsTheFields :
    fVIB [] 0 = false ∧ fVIB [(0x020, 0x40#8)] 0 = true ∧ ((0#3 : BitVec 3) = 0#3 ∨ (0#3 : BitVec 3) = 4#3) ∧
      ((4#3 : BitVec 3) = 0#3 ∨ (4#3 : BitVec 3) = 4#3) := by decide

theorem witness_RatesAndIncrementsAreBounded : (0#4 : BitVec 4) = 0#4 ∧ (15#4 : BitVec 4) = 15#4 ∧ (1#4 : BitVec 4) ≠ 0#4 ∧
    (60 : Nat) ≤ 60 := by decide

/-- Every stage, on both sides of its target: the sustain target of the first file is 511, of the second 15. -/
theorem witness_TickAdvancesEveryEnvelope :
    ((chipWith [] 3 (opAt .off 0#9)).ops[(3 : OpNum)]).stage = .off ∧
      ((chipWith [] 3 (opAt .attack 511#9)).ops[(3 : OpNum)]).level = 511#9 ∧
      ((chipWith [] 3 (opAt .attack 510#9)).ops[(3 : OpNum)]).stage = .attack ∧
      (511#9).toNat ≤ sustainTarget [] 3 ∧ ¬ (16#9).toNat ≤ sustainTarget [(0x083, 0xF0#8)] 3 ∧
      ((chipWith [(0x083, 0xF0#8)] 3 (opAt .decay 16#9)).ops[(3 : OpNum)]).stage = .decay ∧
      ((chipWith [(0x023, 0x20#8)] 3 (opAt .sustain 9#9)).ops[(3 : OpNum)]).stage = .sustain ∧
      fEGT [(0x023, 0x20#8)] 3 = true ∧ fEGT [] 3 = false ∧
      ((chipWith [] 3 (opAt .release 0#9)).ops[(3 : OpNum)]).stage = .release := by decide

theorem witness_EnvelopeLevelIsMonotone :
    ((chipWith [] 3 (opAt .attack 0#9)).ops[(3 : OpNum)]).stage = .attack ∧
      ((chipWith [] 3 (opAt .decay 511#9)).ops[(3 : OpNum)]).stage = .decay ∧
      ((chipWith [] 3 (opAt .sustain 1#9)).ops[(3 : OpNum)]).stage = .sustain ∧ fEGT [] 3 = false ∧
      fEGT [(0x023, 0x20#8)] 3 = true ∧ ((chipWith [] 3 (opAt .off 0#9)).ops[(3 : OpNum)]).stage = .off := by decide

theorem witness_ReleaseRunsOutAtEveryRate :
    ((chipWith [(0x083, 0x01#8)] 3 (opAt .release 511#9)).ops[(3 : OpNum)]).stage = .release ∧
      fRR [(0x083, 0x01#8)] 3 ≠ 0#4 ∧ 2097153 ≤ 2097153 := by decide

theorem witness_FastestReleaseFallsByFour :
    ((chipWith [(0x083, 0x0F#8)] 3 (opAt .release 511#9)).ops[(3 : OpNum)]).stage = .release ∧
      fRR [(0x083, 0x0F#8)] 3 = 15#4 := by decide

theorem witness_ExponentialConversionIsBounded : 0xC00 ≤ 0xC00 := by decide

theorem witness_SilentOperatorGivesZeroOrMinusOne : State.reset.chip.ops[(35 : OpNum)].level = 0#9 := by decide

theorem witness_AttenuationIsBounded : (209#8).toNat < 210 := by decide

/-- The last position of each quarter, and the first. -/
theorem witness_SecondHalfCyclesOfWaveforms : (0#10).toNat < 512 ∧ (255#10).toNat < 256 ∧ ¬ (256#10).toNat < 256 ∧
    (511#10).toNat < 512 := by decide

/-- Both algorithms, on the highest channel. -/
theorem witness_TwoOperatorAlgorithms :
    chanMode [] 17 = .twoOp ∧ fCNT [] 17 = false ∧ chanMode [(0x1C8, 0x01#8)] 17 = .twoOp ∧
      fCNT [(0x1C8, 0x01#8)] 17 = true := by decide

/-- All four algorithms, on the lowest and the highest pair. -/
theorem witness_FourOperatorAlgorithms :
    pairFirst [(0x104, 0x01#8), (0x105, 0x01#8)] 0 = true ∧ fCNT [(0x104, 0x01#8), (0x105, 0x01#8)] 0 = false ∧
      fCNT [(0x104, 0x01#8), (0x105, 0x01#8)] 3 = false ∧
      pairFirst [(0x104, 0x20#8), (0x105, 0x01#8), (0x1C2, 0x01#8), (0x1C5, 0x01#8)] 11 = true ∧
      fCNT [(0x104, 0x20#8), (0x105, 0x01#8), (0x1C2, 0x01#8), (0x1C5, 0x01#8)] 11 = true ∧
      fCNT [(0x104, 0x20#8), (0x105, 0x01#8), (0x1C2, 0x01#8), (0x1C5, 0x01#8)] (chanAbove 11) = true ∧
      pairFirst [(0x0C0, 0x01#8), (0x104, 0x01#8), (0x105, 0x01#8)] 0 = true ∧
      fCNT [(0x0C0, 0x01#8), (0x104, 0x01#8), (0x105, 0x01#8)] 0 = true ∧
      pairFirst [(0x0C3, 0x01#8), (0x104, 0x01#8), (0x105, 0x01#8)] 0 = true ∧
      fCNT [(0x0C3, 0x01#8), (0x104, 0x01#8), (0x105, 0x01#8)] (chanAbove 0) = true := by decide

theorem witness_ModesOfAChannel : fNEW [(0x104, 0x3F#8)] = false := by decide

theorem witness_RhythmInstruments : fRYT [(0x0BD, 0x20#8)] = true := by decide

theorem witness_MixerSelectsSumsAndClips : fNEW [(0x105, 0x01#8)] = true ∧ fNEW [] = false := by decide

/-- The lowest and the highest feedback level, with the largest samples of either sign, and each mode that has feedback. -/
theorem witness_FeedbackBlendsTheLastTwoSamples :
    (fFB [] (ctl [] 0)).toNat = 0 ∧ (fFB [(0x0C0, 0x02#8)] (ctl [(0x0C0, 0x02#8)] 0)).toNat = 1 ∧
      (fFB [(0x0C0, 0x0E#8)] (ctl [(0x0C0, 0x0E#8)] 0)).toNat = 7 ∧
      ({ Operator.zero with out := -4085, prevOut := -4085 } : Operator).Inv ∧
      ({ Operator.zero with out := 4084, prevOut := 4084 } : Operator).Inv ∧ chanMode [] 0 = .twoOp ∧
      chanMode [(0x104, 0x01#8), (0x105, 0x01#8)] 0 = .fourOpFirst ∧ chanMode [(0x0BD, 0x20#8)] 6 = .rhythm := by decide

theorem witness_StepKeepsTheInvariant : State.reset.Inv ∧ step State.reset = .next State.reset := ⟨by decide, rfl⟩

theorem witness_InitialisedCoreNeverStops : State.reset.chip.init = true ∧ State.reset.Inv := ⟨rfl, by decide⟩

/-- Two states that differ in an unread register. -/
theorem witness_UnreadBytesAreNeverObserved : State.reset.SameButUnread (stateOf [(0x001, 0x20#8), (0x1FF, 0xAA#8)]) := by
  refine ⟨⟨by decide, by decide, fun a ha => ?_, by decide⟩, rfl, rfl⟩
  have h1 : a.toNat ≠ 1 := fun h => by
    rw [BitVec.eq_of_toNat_eq (y := 0x001#9) h] at ha
    exact absurd ha (by decide)
  have h2 : a.toNat ≠ 0x1FF := fun h => by
    rw [BitVec.eq_of_toNat_eq (y := 0x1FF#9) h] at ha
    exact absurd ha (by decide)
  simp [Memory.reg, Memory.read, unlisted, stateOf, stateWith, chipWith, State.reset, h1, h2]

end Sys2Proof.Tests
end

section
/-! The step and the queue of pending operations: what a step does with an empty queue, with a word at its head, and with the
word that `withFetchWord` places there. -/

namespace Sys2Proof.Machine

/-! ## The decoder of opcode-table words -/

/-- R80: the decoder accepts exactly the numbers of 34 bits, and reads them as the host words they are. -/
theorem decodeTableWord_eq_some_iff {nbits w : Nat} {i : Instr} :
    decodeTableWord nbits w = some i ↔
      tableWord nbits w < 2 ^ 34 ∧ decodeWord (BitVec.ofNat 34 (tableWord nbits w)) = i := by
  unfold decodeTableWord decode
  by_cases hlt : tableWord nbits w < 2 ^ 34
  · rw [if_pos hlt]
    simp only [Option.some.injEq, hlt, true_and]
  · rw [if_neg hlt]
    simp only [reduceCtorEq, hlt, false_and]

/-! ## `step` and `State.withFetchWord` -/

theorem step_of_pending_nil {s : State} (hp : s.pending = []) : step s = .next s := by
  simp only [step, hp]

theorem step_of_pending_cons {s : State} {w : HostWord} {rest : List HostWord} (hp : s.pending = w :: rest) :
    step s = exec (decodeWord w) { s with pending := rest } := by
  simp only [step, hp]

theorem State.withFetchWord_of_lt {s : State} {nbits w : Nat} (hlt : tableWord nbits w < 2 ^ 34) :
    s.withFetchWord nbits w = { s with pending := BitVec.ofNat 34 (tableWord nbits w) :: s.pending } :=
  if_pos hlt

/-- The step takes the placed word off the queue again, so the operation runs on the state it was placed in. -/
theorem step_withFetchWord {s : State} {nbits w : Nat} {i : Instr} (hdec : decodeTableWord nbits w = some i) :
    step (s.withFetchWord nbits w) = exec i s := by
  obtain ⟨hlt, hword⟩ := decodeTableWord_eq_some_iff.mp hdec
  rw [State.withFetchWord_of_lt hlt, step_of_pending_cons rfl, hword]

/-- Settles O1: the queue is empty, has a word at its head, or has the one that `withFetchWord` placed there. -/
theorem stepExecutesThePendingOperation : Obligations.StepExecutesThePendingOperation :=
  ⟨fun _ => step_of_pending_nil, fun _ _ _ => step_of_pending_cons, fun _ _ _ _ => step_withFetchWord⟩

end Sys2Proof.Machine
end

section
/-! The numbers and register addresses of the operators and channels (R25 to R28). -/

namespace Sys2Proof.Machine

/-- R26, R27: below the next bank, the address of an operator register is the plain sum of its parts. -/
theorem opAddr_toNat {base : Nat} (hb : base + 0x15 < 0x100) (o : OpNum) :
    (opAddr base o).toNat = 0x100 * (o.val / 18) + base + opOffset o := by
  have ho : opOffset o ≤ 0x15 := by unfold opOffset; omega
  rw [opAddr, BitVec.toNat_ofNat, Nat.mod_eq_of_lt (by omega)]

/-- The table of R27 for the offset of an operator inside its register groups. -/
theorem opOffset_eq_getD : ∀ o : OpNum, opOffset o =
    [0x00, 0x01, 0x02, 0x03, 0x04, 0x05, 0x08, 0x09, 0x0A, 0x0B, 0x0C, 0x0D, 0x10, 0x11, 0x12, 0x13, 0x14, 0x15].getD
      (o.val % 18) 0 := by decide

/-- R25, R28: below the next bank, the address of a channel register is the plain sum of its parts. -/
theorem chanAddr_toNat {base : Nat} (hb : base + 8 < 0x100) (c : ChanNum) :
    (chanAddr base c).toNat = 0x100 * (c.val / 9) + base + c.val % 9 := by
  rw [chanAddr, BitVec.toNat_ofNat, Nat.mod_eq_of_lt (by omega)]

/-- The table of R28 for the first operator of a channel. -/
theorem op1_val : ∀ c : ChanNum,
    (op1 c).val = 18 * (c.val / 9) + [0, 1, 2, 6, 7, 8, 12, 13, 14].getD (c.val % 9) 0 := by decide

theorem op2_val : ∀ c : ChanNum, (op2 c).val = (op1 c).val + 3 := by decide

@[simp] theorem chOf_op1 : ∀ c : ChanNum, chOf (op1 c) = c := by decide

@[simp] theorem chOf_op2 : ∀ c : ChanNum, chOf (op2 c) = c := by decide

@[simp] theorem isFirstOp_op1 : ∀ c : ChanNum, isFirstOp (op1 c) = true := by decide

@[simp] theorem isFirstOp_op2 : ∀ c : ChanNum, isFirstOp (op2 c) = false := by decide

/-- R28: an operator is the first or the second operator of the channel that owns it. -/
theorem eq_op1_or_op2_chOf : ∀ o : OpNum, o = if isFirstOp o then op1 (chOf o) else op2 (chOf o) := by decide

/-- Settles O6: the addresses by arithmetic at any base whose group fits a bank, the numbering by the tables. -/
theorem operatorsBelongToOneChannel : Obligations.OperatorsBelongToOneChannel := by
  refine ⟨fun o base hb => ?_, fun c base hb => ?_,
    fun c => ⟨op1_val c, op2_val c, chOf_op1 c, chOf_op2 c, isFirstOp_op1 c, isFirstOp_op2 c⟩, eq_op1_or_op2_chOf⟩
  · rw [opAddr_toNat, opOffset_eq_getD]
    fin_cases hb <;> decide
  · refine chanAddr_toNat ?_ c
    fin_cases hb <;> decide

end Sys2Proof.Machine
end

section
/-! `RESET` (R38, R121, R126): the ratio, the Chip State it leaves, and the invariant there. -/

namespace Sys2Proof.Machine

/-! ## The ratio -/

/-- R126, R283: the ratio of every 32-bit rate fits its 27 bits, so nothing is cut off. -/
theorem ratioOf_toNat (rate : BitVec 32) : (ratioOf rate).toNat = max rate.toNat 49 * 1024 / 49716 := by
  have hrate := rate.isLt
  simp only [ratioOf, rateMin, rsmFrac, nativeRate, Nat.shiftLeft_eq, BitVec.toNat_ofNat, Nat.reducePow]
  omega

/-- R126: the clamp at 49 frames per second keeps the ratio from 0. -/
theorem one_le_ratioOf_toNat (rate : BitVec 32) : 1 ≤ (ratioOf rate).toNat := by
  rw [ratioOf_toNat]
  omega

/-! ## The Chip State after `RESET` -/

@[simp] theorem exec_reset (rate : BitVec 32) (s : State) :
    exec (.reset rate) s = .next (s.completed (Chip.afterReset rate) .void) := rfl

theorem Chip.afterReset_ops (rate : BitVec 32) (o : OpNum) : (Chip.afterReset rate).ops[o] = Operator.zero := by
  simp [Chip.afterReset]

theorem zeroFrame_getElem (x : OutPos) : zeroFrame[x] = 0#16 := by
  fin_cases x <;> rfl

/-- Settles O7: `RESET` completes with `Chip.afterReset`, whose elements are read off one by one. -/
theorem resetLeavesEveryElementAtItsValue : Obligations.ResetLeavesEveryElementAtItsValue := by
  intro rate s
  refine ⟨_, exec_reset rate s, rfl, fun _ => rfl, fun o => ?_, rfl, rfl, rfl, rfl, rfl,
    fun x => ⟨zeroFrame_getElem x, zeroFrame_getElem x, zeroFrame_getElem x⟩,
    ratioOf_toNat rate, one_le_ratioOf_toNat rate, rfl, rfl⟩
  rw [State.completed_chip, Chip.afterReset_ops]
  exact ⟨rfl, rfl, rfl, rfl, rfl⟩

/-! ## The invariant after `RESET` -/

theorem Operator.zero_inv : Operator.zero.Inv := by decide

theorem Chip.afterReset_inv (rate : BitVec 32) : (Chip.afterReset rate).Inv := by
  refine ⟨rfl, (by decide : noiseReset ≠ 0#23), (by decide : (0#8).toNat < 210), one_le_ratioOf_toNat rate, ?_, fun o => ?_⟩
  · exact Nat.add_pos_right _ (by decide)
  · rw [Chip.afterReset_ops]
    exact Operator.zero_inv

/-- The reset state of the model is the Chip State after `RESET 49716` (log entry 3). -/
theorem State.reset_chip : State.reset.chip = Chip.afterReset 49716#32 := by decide

/-- Settles O51: `State.reset` is one of the states after `RESET`. -/
theorem invariantHoldsAfterReset : Obligations.InvariantHoldsAfterReset :=
  ⟨fun _ => State.reset_chip ▸ Chip.afterReset_inv 49716#32, Chip.afterReset_inv⟩

end Sys2Proof.Machine
end

section
/-! A native tick and the tick loop: the envelope levels (R31), the range of a sample (R32, R216), and what the loop counts. -/

namespace Sys2Proof.Machine

/-! ## The envelope, stage by stage (R188) -/

theorem envAdvance_of_off {op : Operator} (h : op.stage = .off) (m : Memory) (t : BitVec 14) (o : OpNum) :
    envAdvance m t o op = op := by
  simp only [envAdvance, h]

theorem envAdvance_of_attack {op : Operator} (h : op.stage = .attack) (m : Memory) (t : BitVec 14) (o : OpNum) :
    envAdvance m t o op = attackStep (egInc t (rateOf m o (fAR m o))) op := by
  simp only [envAdvance, h]

theorem envAdvance_of_decay {op : Operator} (h : op.stage = .decay) (m : Memory) (t : BitVec 14) (o : OpNum) :
    envAdvance m t o op = decayStep (sustainTarget m o) (egInc t (rateOf m o (fDR m o))) op := by
  simp only [envAdvance, h]

theorem envAdvance_of_heldSustain {op : Operator} (h : op.stage = .sustain) {m : Memory} {o : OpNum} (hegt : fEGT m o = true)
    (t : BitVec 14) : envAdvance m t o op = op := by
  simp only [envAdvance, h, hegt, if_true]

/-- R192, R193: a `Sustain` that is not held falls as a `Release` does. -/
theorem envAdvance_of_falling {op : Operator} {m : Memory} {o : OpNum}
    (h : op.stage = .release ∨ (op.stage = .sustain ∧ fEGT m o = false)) (t : BitVec 14) :
    envAdvance m t o op = releaseStep (egInc t (rateOf m o (fRR m o))) op := by
  rcases h with hrel | ⟨hsus, hegt⟩
  · simp only [envAdvance, hrel]
  · simp only [envAdvance, hsus, hegt, Bool.false_eq_true, if_false]

/-! ## The level and its target (R31) -/

/-- A 9-bit level holds every number up to 511. -/
theorem level_toNat_ofNat {n : Nat} (h : n ≤ 511) : (BitVec.ofNat 9 n).toNat = n := by
  rw [BitVec.toNat_ofNat, Nat.mod_eq_of_lt (by omega)]

theorem sustainTarget_le (m : Memory) (o : OpNum) : sustainTarget m o ≤ 511 := Nat.sub_le _ _

theorem le_attackStep_level (inc : Nat) (op : Operator) : op.level.toNat ≤ (attackStep inc op).level.toNat := by
  have hlt := op.level.isLt
  rw [attackStep_level]
  split
  · exact le_rfl
  · rw [level_toNat_ofNat (Nat.min_le_left _ _)]
    omega

theorem decayStep_level_le (target inc : Nat) (op : Operator) :
    (decayStep target inc op).level.toNat ≤ op.level.toNat := by
  have hlt := op.level.isLt
  rw [decayStep_level]
  split
  · exact le_rfl
  · rw [level_toNat_ofNat (by omega)]
    omega

theorem min_target_le_decayStep_level {target : Nat} (htarget : target ≤ 511) (inc : Nat) (op : Operator) :
    min op.level.toNat target ≤ (decayStep target inc op).level.toNat := by
  have hlt := op.level.isLt
  rw [decayStep_level]
  split
  · exact Nat.min_le_left _ _
  · rw [level_toNat_ofNat (by omega)]
    omega

theorem releaseStep_level_le (inc : Nat) (op : Operator) : (releaseStep inc op).level.toNat ≤ op.level.toNat := by
  have hlt := op.level.isLt
  rw [releaseStep_level]
  split
  · exact le_rfl
  · rw [level_toNat_ofNat (by omega)]
    omega

/-- Pass 2 and the phase leave the level alone, so a tick moves it as the envelope does. -/
theorem nativeTick_level (c : Chip) (o : OpNum) :
    (nativeTick c).1.ops[o].level = (envAdvance c.regs c.timer o c.ops[o]).level := by
  rw [nativeTick_ops, ← envAdvance_phaseAdvance_level c.regs c.timer c.vibPos, ← pass1_get]
  exact pass2_level c (pass1 c) o.val o.isLt

/-- Settles O38, one clause for each stage the tick can find. -/
theorem envelopeLevelIsMonotone : Obligations.EnvelopeLevelIsMonotone := by
  intro c o
  dsimp only
  rw [nativeTick_level]
  refine ⟨fun hatt => ?_, fun hdec => ?_, fun hfall => ?_, ?_⟩
  · rw [envAdvance_of_attack hatt]
    exact le_attackStep_level _ _
  · rw [envAdvance_of_decay hdec]
    exact ⟨decayStep_level_le _ _ _, min_target_le_decayStep_level (sustainTarget_le _ _) _ _⟩
  · rw [envAdvance_of_falling hfall]
    exact releaseStep_level_le _ _
  · rintro (hoff | ⟨hsus, hegt⟩)
    · rw [envAdvance_of_off hoff]
    · rw [envAdvance_of_heldSustain hsus hegt]

/-! ## The range of a sample (R32, R197, R210) -/

/-- The largest entry of the table of R199 is its last. -/
theorem le_of_mem_expromTable {x : Nat} (hx : x ∈ expromTable) : x ≤ 1018 := by
  have h0 : ∀ y ∈ expromTable0, y ≤ 1018 := by decide
  have h1 : ∀ y ∈ expromTable1, y ≤ 1018 := by decide
  have h2 : ∀ y ∈ expromTable2, y ≤ 1018 := by decide
  have h3 : ∀ y ∈ expromTable3, y ≤ 1018 := by decide
  simp only [expromTable, List.mem_append] at hx
  rcases hx with ((hx | hx) | hx) | hx
  exacts [h0 x hx, h1 x hx, h2 x hx, h3 x hx]

theorem exprom_le (i : Nat) : exprom i ≤ 1018 := by
  rw [exprom, List.getD_eq_getElem?_getD]
  cases h : expromTable[i]? with
  | none => exact Nat.zero_le _
  | some x => exact le_of_mem_expromTable (List.mem_of_getElem? h)

theorem expOf_le (l : Nat) : expOf l ≤ 4084 := by
  have hexp := exprom_le (255 - min l 0x1FFF % 256)
  calc expOf l ≤ (exprom (255 - min l 0x1FFF % 256) + 1024) <<< 1 := Nat.shiftRight_le _ _
    _ ≤ 4084 := by rw [Nat.shiftLeft_eq]; omega

/-- R200: the negative half of a waveform reaches one further down, by the ones' complement. -/
theorem wave_mem_range (w : BitVec 3) (p : BitVec 10) (a : Nat) : -4085 ≤ wave w p a ∧ wave w p a ≤ 4084 := by
  have hexp := expOf_le ((waveLog w p).1 + (a <<< 3))
  simp only [wave, inv]
  split <;> omega

/-! ## The invariant of an operator over a tick (R189, R216) -/

theorem phaseAdvance_inv {op : Operator} (h : op.Inv) (m : Memory) (vp : BitVec 3) (o : OpNum) :
    (phaseAdvance m vp o op).Inv := h

/-- R193: a release step makes an operator `Off` at level 0 only. -/
theorem releaseStep_level_of_off {inc : Nat} {op : Operator} (hne : op.stage ≠ .off)
    (hoff : (releaseStep inc op).stage = .off) : (releaseStep inc op).level = 0#9 := by
  rw [releaseStep_stage] at hoff
  rw [releaseStep_level]
  split at hoff
  · rwa [if_pos ‹_›]
  · exact absurd hoff hne

/-- R189: of all the stages only the release step leads to `Off`. -/
theorem envAdvance_inv {op : Operator} (h : op.Inv) (m : Memory) (t : BitVec 14) (o : OpNum) : (envAdvance m t o op).Inv := by
  obtain ⟨hout, hprev, hoff⟩ := h
  refine ⟨by rwa [envAdvance_out], by rwa [envAdvance_prevOut], ?_⟩
  cases hstage : op.stage with
  | off => rwa [envAdvance_of_off hstage]
  | attack =>
    rw [envAdvance_of_attack hstage, attackStep_stage, hstage]
    split <;> exact fun he => nomatch he
  | decay =>
    rw [envAdvance_of_decay hstage, decayStep_stage, hstage]
    split <;> exact fun he => nomatch he
  | sustain =>
    cases hegt : fEGT m o with
    | true => rwa [envAdvance_of_heldSustain hstage hegt]
    | false =>
      rw [envAdvance_of_falling (.inr ⟨hstage, hegt⟩)]
      exact releaseStep_level_of_off (by simp [hstage])
  | release =>
    rw [envAdvance_of_falling (.inl hstage)]
    exact releaseStep_level_of_off (by simp [hstage])

theorem pass1_inv {c : Chip} (h : ∀ o : OpNum, c.ops[o].Inv) (o : OpNum) : (pass1 c)[o].Inv := by
  rw [pass1_get]
  exact envAdvance_inv (phaseAdvance_inv (h o) _ _ _) _ _ _

theorem sampleOp_inv {ops : Vector Operator 36} (h : ∀ p : OpNum, ops[p].Inv) (m : Memory) (tp : BitVec 8) (n : BitVec 23)
    (o p : OpNum) : (sampleOp m tp n ops o)[p].Inv := by
  rw [sampleOp_get]
  split
  · obtain ⟨hout, -, hoff⟩ := h o
    exact ⟨wave_mem_range _ _ _, hout, hoff⟩
  · exact h p

theorem pass2_inv (c : Chip) {ops : Vector Operator 36} (h : ∀ o : OpNum, ops[o].Inv) (o : OpNum) : (pass2 c ops)[o].Inv := by
  unfold pass2
  induction opOrder generalizing ops with
  | nil => exact h o
  | cons p l ih => exact ih (sampleOp_inv h _ _ _ p)

theorem nativeTick_ops_inv {c : Chip} (h : ∀ o : OpNum, c.ops[o].Inv) (o : OpNum) : (nativeTick c).1.ops[o].Inv := by
  rw [nativeTick_ops]
  exact pass2_inv c (pass1_inv h) o

/-! ## The global counters (R213, R215) -/

/-- R34: the bit shifted out is either not the only one, or it is fed back in at the top. -/
theorem noiseNext_ne_zero {n : BitVec 23} (h : n ≠ 0#23) : noiseNext n ≠ 0#23 := by
  intro hnext
  rw [noiseNext, BitVec.or_eq_zero_iff] at hnext
  obtain ⟨hshift, hfeed⟩ := hnext
  have hone : n = 1#23 := by bv_omega
  subst hone
  exact absurd hfeed (by decide)

theorem tremNext_lt (t : BitVec 14) {tp : BitVec 8} (h : tp.toNat < 210) : (tremNext t tp).toNat < 210 := by
  unfold tremNext tremLen
  split
  · have hmod : (tp.toNat + 1) % 210 < 210 := Nat.mod_lt _ (by decide)
    rw [BitVec.toNat_ofNat]
    exact (Nat.mod_le _ _).trans_lt hmod
  · exact h

/-! ## The tick loop (R284, R287) -/

/-- The loop of R284 runs as long as the position allows, `samplecnt` turns being enough. -/
theorem tickLoop_eq_iterate {n : Nat} {c : Chip} (hratio : 1 ≤ c.rateratio.toNat) (hn : c.samplecnt.toNat ≤ n) :
    tickLoop n c = resampleTick^[c.samplecnt.toNat / c.rateratio.toNat] c := by
  induction n generalizing c with
  | zero => rw [Nat.le_zero.mp hn, Nat.zero_div]; rfl
  | succ n ih =>
    by_cases hle : c.rateratio.toNat ≤ c.samplecnt.toNat
    · have hcnt := resampleTick_samplecnt_toNat hle
      rw [tickLoop, if_pos hle, ih (by rwa [resampleTick_rateratio]) (by omega), hcnt, resampleTick_rateratio,
        Nat.div_eq_sub_div hratio hle, Function.iterate_succ_apply]
    · rw [tickLoop, if_neg hle, Nat.div_eq_of_lt (Nat.lt_of_not_le hle)]
      rfl

/-- Each turn takes the ratio from the position, so the remainder is left. -/
theorem tickLoop_samplecnt_toNat {n : Nat} {c : Chip} (hratio : 1 ≤ c.rateratio.toNat) (hn : c.samplecnt.toNat ≤ n) :
    (tickLoop n c).samplecnt.toNat = c.samplecnt.toNat % c.rateratio.toNat := by
  induction n generalizing c with
  | zero => rw [Nat.le_zero.mp hn, Nat.zero_mod]; exact Nat.le_zero.mp hn
  | succ n ih =>
    by_cases hle : c.rateratio.toNat ≤ c.samplecnt.toNat
    · have hcnt := resampleTick_samplecnt_toNat hle
      rw [tickLoop, if_pos hle, ih (by rwa [resampleTick_rateratio]) (by omega), hcnt, resampleTick_rateratio,
        ← Nat.mod_eq_sub_mod hle]
    · rw [tickLoop, if_neg hle, Nat.mod_eq_of_lt (Nat.lt_of_not_le hle)]

/-- R212: every turn moves the timer on by one. -/
theorem iterate_resampleTick_timer (k : Nat) (c : Chip) :
    (resampleTick^[k] c).timer = c.timer + BitVec.ofNat 14 k := by
  induction k with
  | zero => simp
  | succ k ih =>
    rw [Function.iterate_succ_apply', resampleTick_timer, ih, timerNext, BitVec.add_assoc, ← BitVec.ofNat_add]

end Sys2Proof.Machine
end

section
/-! What the operations of the host do to the whole machine: `GEN` on the timer (R287), and the invariant of R33 to R35, R189
and R216 over every step. -/

namespace Sys2Proof.Machine

/-! ## The operations by kind -/

/-- R80: an operation is `RESET`, `GEN`, `GETBUF`, or one `WRITE` of the host, whatever register it names. -/
theorem exec_cases (i : Instr) :
    (∃ rate, i = .reset rate) ∨ i = .gen ∨ i = .getbuf ∨ ∃ addr v, ∀ s, exec i s = hostWrite addr v s := by
  cases i with
  | reset rate => exact .inl ⟨rate, rfl⟩
  | gen => exact .inr (.inl rfl)
  | getbuf => exact .inr (.inr (.inl rfl))
  | _ => exact .inr (.inr (.inr ⟨_, _, fun _ => rfl⟩))

/-- R122: a `WRITE` is ignored or is `RegWrite` at some valid address. -/
theorem chipWrite_cases (c : Chip) (addr : BitVec 16) (v : Byte) :
    chipWrite c addr v = c ∨ ∃ a, chipWrite c addr v = regWrite c a v := by
  unfold chipWrite
  split
  · exact .inl rfl
  · exact .inr ⟨_, rfl⟩

@[simp] theorem chipWrite_init (c : Chip) (addr : BitVec 16) (v : Byte) : (chipWrite c addr v).init = c.init := by
  rcases chipWrite_cases c addr v with h | ⟨a, h⟩ <;> rw [h]
  exact regWrite_init c a v

theorem exec_gen_of_init {s : State} (hi : s.chip.init = true) (hratio : s.chip.rateratio ≠ 0#27) :
    exec .gen s = .next (s.completed (chipGen s.chip) (.frame (chipGen s.chip).outbuf)) :=
  (whenInit_of_init hi _).trans (if_neg hratio)

theorem exec_getbuf_of_init {s : State} (hi : s.chip.init = true) :
    exec .getbuf s = .next (s.completed s.chip (.address Config.outbufBase)) := whenInit_of_init hi _

theorem one_le_rateratio_iff {c : Chip} : 1 ≤ c.rateratio.toNat ↔ c.rateratio ≠ 0#27 := by
  rw [Nat.one_le_iff_ne_zero, ne_eq, ne_eq, ← BitVec.toNat_inj]
  rfl

/-! ## `GEN` (R123, R284 to R287) -/

/-- R287: the timer counts the turns of the loop. -/
theorem chipGen_timer_toNat {c : Chip} (hratio : 1 ≤ c.rateratio.toNat) :
    (chipGen c).timer.toNat = (c.timer.toNat + c.samplecnt.toNat / c.rateratio.toNat) % 16384 := by
  rw [chipGen_timer, tickLoop_eq_iterate hratio le_rfl, iterate_resampleTick_timer, BitVec.toNat_add, BitVec.toNat_ofNat,
    Nat.add_mod_mod]

/-- R286: the position is that of one output frame past the last tick. -/
theorem chipGen_samplecnt_toNat {c : Chip} (hratio : 1 ≤ c.rateratio.toNat) :
    (chipGen c).samplecnt.toNat = c.samplecnt.toNat % c.rateratio.toNat + 1024 := by
  have hmod : c.samplecnt.toNat % c.rateratio.toNat < c.rateratio.toNat := Nat.mod_lt _ hratio
  have hlt := c.rateratio.isLt
  rw [chipGen_samplecnt, BitVec.toNat_add, tickLoop_samplecnt_toNat hratio le_rfl]
  exact Nat.mod_eq_of_lt (by simp only [BitVec.toNat_ofNat]; omega)

/-- Settles O11: the loop leaves the fields of the host, and the timer counts its turns. -/
theorem genLeavesTheRegisterFile : Obligations.GenLeavesTheRegisterFile := by
  intro s hi hratio
  exact ⟨_, exec_gen_of_init hi hratio, (chipGen_init _).trans hi, chipGen_regs _, chipGen_rateratio _, rfl,
    chipGen_timer_toNat (one_le_rateratio_iff.mpr hratio)⟩

/-! ## The invariant over a tick -/

/-- The part of the invariant that a turn of the loop keeps by itself; the clause on the position holds at its end only. -/
def Chip.EngineInv (c : Chip) : Prop :=
  c.regs.wf = true ∧ c.noise ≠ 0#23 ∧ c.tremPos.toNat < 210 ∧ ∀ o : OpNum, c.ops[o].Inv

theorem Chip.inv_iff {c : Chip} :
    c.Inv ↔ c.EngineInv ∧ 1 ≤ c.rateratio.toNat ∧ c.samplecnt.toNat < c.rateratio.toNat + 1024 := by
  constructor
  · rintro ⟨hwf, hnoise, htrem, hratio, hcnt, hops⟩
    exact ⟨⟨hwf, hnoise, htrem, hops⟩, hratio, hcnt⟩
  · rintro ⟨⟨hwf, hnoise, htrem, hops⟩, hratio, hcnt⟩
    exact ⟨hwf, hnoise, htrem, hratio, hcnt, hops⟩

theorem resampleTick_engineInv (c : Chip) (h : c.EngineInv) : (resampleTick c).EngineInv := by
  obtain ⟨hwf, hnoise, htrem, hops⟩ := h
  refine ⟨by rwa [resampleTick_regs], ?_, ?_, fun o => ?_⟩
  · rw [resampleTick_noise]
    exact noiseNext_ne_zero hnoise
  · rw [resampleTick_tremPos]
    exact tremNext_lt _ htrem
  · rw [resampleTick_ops]
    exact nativeTick_ops_inv hops o

theorem chipGen_inv {c : Chip} (h : c.Inv) : (chipGen c).Inv := by
  obtain ⟨hengine, hratio, -⟩ := Chip.inv_iff.mp h
  have hloop : (tickLoop c.samplecnt.toNat c).EngineInv := tickLoop_keeps resampleTick_engineInv _ _ hengine
  refine Chip.inv_iff.mpr ⟨?_, ?_, ?_⟩
  · simpa only [Chip.EngineInv, chipGen_regs, tickLoop_regs, chipGen_noise, chipGen_tremPos, chipGen_ops] using hloop
  · rwa [chipGen_rateratio]
  · rw [chipGen_samplecnt_toNat hratio, chipGen_rateratio]
    exact Nat.add_lt_add_right (Nat.mod_lt _ hratio) 1024

/-! ## The invariant over a `WRITE` -/

/-- No key edge leads to `Off`, and none touches a sample (R145, R146). -/
theorem keyEdge_inv {op : Operator} (h : op.Inv) (m0 m1 : Memory) (o : OpNum) : (keyEdge m0 m1 o op).Inv := by
  obtain ⟨hout, hprev, hoff⟩ := h
  rw [keyEdge_eq]
  unfold afterEdge
  split
  · refine ⟨hout, hprev, ?_⟩
    dsimp only
    split <;> exact fun he => nomatch he
  · split
    · exact ⟨hout, hprev, fun he => nomatch he⟩
    · exact ⟨hout, hprev, hoff⟩

theorem regWrite_inv {c : Chip} (h : c.Inv) (a : BitVec 9) (v : Byte) : (regWrite c a v).Inv := by
  obtain ⟨hwf, hnoise, htrem, hratio, hcnt, hops⟩ := h
  refine ⟨Memory.write_wf hwf a v, hnoise, htrem, hratio, hcnt, fun o => ?_⟩
  rw [regWrite_op]
  exact keyEdge_inv (hops o) _ _ o

theorem chipWrite_inv {c : Chip} (h : c.Inv) (addr : BitVec 16) (v : Byte) : (chipWrite c addr v).Inv := by
  rcases chipWrite_cases c addr v with heq | ⟨a, heq⟩ <;> rw [heq]
  · exact h
  · exact regWrite_inv h a v

/-! ## The invariant over a step -/

/-- Every operation that completes leaves the invariant; `RESET` does so even where it did not hold before. -/
theorem exec_inv {i : Instr} {s t : State} (h : s.Inv) (hex : exec i s = .next t) : t.Inv := by
  rcases exec_cases i with ⟨rate, rfl⟩ | rfl | rfl | ⟨addr, v, hwrite⟩
  case inl =>
    cases hex
    exact fun _ => Chip.afterReset_inv rate
  case inr.inl =>
    obtain ⟨hi, -, rfl⟩ := execGen_next hex
    exact fun _ => chipGen_inv (h hi)
  case inr.inr.inl =>
    obtain ⟨hi, hex⟩ := whenInit_next hex
    cases hex
    exact h
  case inr.inr.inr =>
    rw [hwrite] at hex
    obtain ⟨hi, rfl⟩ := hostWrite_next hex
    exact fun _ => chipWrite_inv (h hi) addr v

/-- Settles O52: a step does nothing or executes an operation, and the queue is no part of the invariant. -/
theorem stepKeepsTheInvariant : Obligations.StepKeepsTheInvariant := by
  intro s t h hstep
  rcases step_cases hstep with ⟨-, rfl⟩ | ⟨w, rest, -, hex⟩
  · exact h
  · exact exec_inv (s := { s with pending := rest }) h hex

/-! ## Progress -/

/-- R120, R283: once initialised every operation completes, since only a ratio of 0 could keep `GEN` from it. -/
theorem exec_completes_of_init {s : State} (hi : s.chip.init = true) (hratio : 1 ≤ s.chip.rateratio.toNat) (i : Instr) :
    ∃ t : State, exec i s = .next t ∧ t.chip.init = true := by
  rcases exec_cases i with ⟨rate, rfl⟩ | rfl | rfl | ⟨addr, v, hwrite⟩
  case inl => exact ⟨_, exec_reset rate s, rfl⟩
  case inr.inl => exact ⟨_, exec_gen_of_init hi (one_le_rateratio_iff.mp hratio), (chipGen_init _).trans hi⟩
  case inr.inr.inl => exact ⟨_, exec_getbuf_of_init hi, hi⟩
  case inr.inr.inr => exact ⟨_, (hwrite s).trans (hostWrite_of_init hi addr v), (chipWrite_init _ addr v).trans hi⟩

/-- Settles O53: with the queue empty nothing moves, and the next operation completes by the ratio of the invariant. -/
theorem initialisedCoreNeverStops : Obligations.InitialisedCoreNeverStops := by
  intro s hi h
  obtain ⟨-, hratio, -⟩ := Chip.inv_iff.mp (h hi)
  cases hp : s.pending with
  | nil => exact ⟨s, step_of_pending_nil hp, hi⟩
  | cons w rest =>
    rw [step_of_pending_cons hp]
    exact exec_completes_of_init (s := { s with pending := rest }) hi hratio (decodeWord w)

end Sys2Proof.Machine
end

section
/-! The host's view of memory: the two bytes of an output sample (R63, R64). -/

namespace Sys2Proof.Machine

theorem outByte_low (c : Chip) (x : OutPos) : outByte c x 0 = (c.outbuf[x]).extractLsb' 0 8 := rfl

theorem outByte_high (c : Chip) (x : OutPos) : outByte c x 1 = (c.outbuf[x]).extractLsb' 8 8 := rfl

/-- R64: the bytes of a sample, the one at the higher address first, are the sample. -/
theorem outByte_append (c : Chip) (x : OutPos) : outByte c x 1 ++ outByte c x 0 = c.outbuf[x] := by
  rw [outByte_low, outByte_high]
  exact BitVec.extractLsb'_append_extractLsb'

/-- Settles O13: the two bytes make up the sample, and the sign of an appended word is that of its upper part. -/
theorem outputBytesAreLittleEndian : Obligations.OutputBytesAreLittleEndian := by
  intro c x
  refine ⟨outByte_append c x, ?_⟩
  calc outRead c x
      = (outByte c x 1 ++ outByte c x 0).toInt := congrArg BitVec.toInt (outByte_append c x).symm
    _ = 2 ^ 8 * (outByte c x 1).toInt + (outByte c x 0).toNat := BitVec.toInt_append
    _ = (outByte c x 1).toInt * 256 + (outByte c x 0).toNat := by rw [Int.mul_comm]; rfl

end Sys2Proof.Machine
end

section
/-! The register space as the host reaches it: the `WRITE` that the decoder makes of an address goes to that address (R85 to
R88), and a `WRITE` of the byte held there is no change (R66, R140). -/

namespace Sys2Proof.Machine

/-! ## The address of a decoded `WRITE` (R85 to R88) -/

/-- A 9-bit register address as R86 cuts it: bank, group and operator offset. -/
theorem toNat_eq_bank_group_offset (a : BitVec 9) :
    a.toNat = 0x100 * (a.getLsbD 8).toNat + 0x20 * (a.extractLsb' 5 3).toNat + (a.extractLsb' 0 5).toNat := by
  have ha := a.isLt
  simp only [BitVec.getLsbD, Nat.toNat_testBit, BitVec.extractLsb'_toNat, Nat.shiftRight_eq_div_pow]
  omega

/-- A 9-bit register address as R86 cuts it for the channels: bank, `lo[7:4]` and `lo[3:0]`. -/
theorem toNat_eq_bank_high_low (a : BitVec 9) :
    a.toNat = 0x100 * (a.getLsbD 8).toNat + 0x10 * (a.extractLsb' 4 4).toNat + (a.extractLsb' 0 4).toNat := by
  have ha := a.isLt
  simp only [BitVec.getLsbD, Nat.toNat_testBit, BitVec.extractLsb'_toNat, Nat.shiftRight_eq_div_pow]
  omega

/-- R87: the operator an offset names lies in the bank, at that offset (R27). -/
theorem opAtOffset_eq_some {b : Bool} {off : BitVec 5} {o : OpNum} (h : opAtOffset b off = some o) :
    o.val / 18 = b.toNat ∧ opOffset o = off.toNat := by
  have hb := b.toNat_le
  have hoff := off.isLt
  simp only [opAtOffset, Option.ite_none_right_eq_some, Option.some.injEq, BitVec.extractLsb'_toNat,
    Nat.shiftRight_eq_div_pow] at h
  obtain ⟨hvalid, rfl⟩ := h
  simp only [opOffset, Fin.val_ofNat]
  omega

/-- R88: the channel a nibble names lies in the bank, at that place (R28). -/
theorem chanAtOffset_eq_some {b : Bool} {j : BitVec 4} {c : ChanNum} (h : chanAtOffset b j = some c) :
    c.val / 9 = b.toNat ∧ c.val % 9 = j.toNat := by
  have hb := b.toNat_le
  simp only [chanAtOffset, Option.ite_none_right_eq_some, Option.some.injEq] at h
  obtain ⟨hvalid, rfl⟩ := h
  simp only [Fin.val_ofNat]
  omega

/-- R87: the operator that an address names in a group has its register of that group there. -/
theorem opAddr_of_opAtOffset {a : BitVec 9} {o : OpNum} (ho : opAtOffset (a.getLsbD 8) (a.extractLsb' 0 5) = some o)
    {base : Nat} (hbase : base = 0x20 * (a.extractLsb' 5 3).toNat) : opAddr base o = a := by
  obtain ⟨hbank, hoff⟩ := opAtOffset_eq_some ho
  have hgroup := (a.extractLsb' 5 3).isLt
  apply BitVec.eq_of_toNat_eq
  rw [opAddr_toNat (by omega), hbank, hoff, hbase, ← toNat_eq_bank_group_offset]

/-- R88: the channel that an address names has its register of that group there. -/
theorem chanAddr_of_chanAtOffset {a : BitVec 9} {c : ChanNum}
    (hc : chanAtOffset (a.getLsbD 8) (a.extractLsb' 0 4) = some c) {base : Nat}
    (hbase : base = 0x10 * (a.extractLsb' 4 4).toNat) : chanAddr base c = a := by
  obtain ⟨hbank, hlow⟩ := chanAtOffset_eq_some hc
  have hhigh := (a.extractLsb' 4 4).isLt
  apply BitVec.eq_of_toNat_eq
  rw [chanAddr_toNat (by omega), hbank, hlow, hbase, ← toNat_eq_bank_high_low]

/-! ## The operation of a decoded `WRITE` -/

theorem exec_of_decodeNamed {a : BitVec 9} {v : Byte} {i : Instr} (h : decodeNamed a v = some i) (s : State) :
    exec i s = hostWrite (wideAddr a) v s := by
  unfold decodeNamed at h
  split_ifs at h <;> cases h <;> subst a <;> rfl

theorem exec_of_decodeOperatorReg {a : BitVec 9} {v : Byte} {i : Instr} (h : decodeOperatorReg a v = some i) (s : State) :
    exec i s = hostWrite (wideAddr a) v s := by
  unfold decodeOperatorReg at h
  split at h
  case h_1 => cases h
  case h_2 o ho =>
    have hstore {base : Nat} (hbase : base = 0x20 * (a.extractLsb' 5 3).toNat) :
        hostWrite (wideAddr (opAddr base o)) v s = hostWrite (wideAddr a) v s := by
      rw [opAddr_of_opAtOffset ho hbase]
    dsimp only at h
    split_ifs at h with h1 h2 h3 h4 h7 <;> cases h
    exacts [hstore (by rw [h1]; rfl), hstore (by rw [h2]; rfl), hstore (by rw [h3]; rfl), hstore (by rw [h4]; rfl),
      hstore (by rw [h7]; rfl)]

theorem exec_of_decodeChannelReg {a : BitVec 9} {v : Byte} {i : Instr} (h : decodeChannelReg a v = some i) (s : State) :
    exec i s = hostWrite (wideAddr a) v s := by
  unfold decodeChannelReg at h
  split at h
  case h_1 => cases h
  case h_2 c hc =>
    have hstore {base : Nat} (hbase : base = 0x10 * (a.extractLsb' 4 4).toNat) :
        hostWrite (wideAddr (chanAddr base c)) v s = hostWrite (wideAddr a) v s := by
      rw [chanAddr_of_chanAtOffset hc hbase]
    dsimp only at h
    split_ifs at h with hA hB hC <;> cases h
    exacts [hstore (by rw [hA]; rfl), hstore (by rw [hB]; rfl), hstore (by rw [hC]; rfl)]

/-- R85 steps (2) and (3): whichever row of R86 claims a valid address, the operation is the `WRITE` there. -/
theorem exec_decodeRegister (a : BitVec 9) (v : Byte) (s : State) :
    exec (decodeRegister a v) s = hostWrite (wideAddr a) v s := by
  unfold decodeRegister
  split
  case h_1 i hnamed => exact exec_of_decodeNamed hnamed s
  case h_2 =>
    split
    case h_1 i hop => exact exec_of_decodeOperatorReg hop s
    case h_2 =>
      split
      case h_1 i hchan => exact exec_of_decodeChannelReg hchan s
      case h_2 => rfl

/-- R303: the upper seven bits of an address are zero exactly for the addresses up to 511. -/
theorem extractLsb'_upper_eq_zero_iff {addr : BitVec 16} : addr.extractLsb' 9 7 = 0#7 ↔ addr.toNat ≤ 511 := by
  have haddr := addr.isLt
  rw [← BitVec.toNat_inj, BitVec.extractLsb'_toNat, BitVec.toNat_ofNat, Nat.shiftRight_eq_div_pow]
  omega

/-- A valid address is its low nine bits. -/
theorem extractLsb'_register_toNat {addr : BitVec 16} (h : addr.toNat ≤ 511) :
    (addr.extractLsb' 0 9).toNat = addr.toNat := by
  rw [BitVec.extractLsb'_toNat, Nat.shiftRight_zero]
  exact Nat.mod_eq_of_lt (by omega)

theorem wideAddr_extractLsb' {addr : BitVec 16} (h : addr.toNat ≤ 511) : wideAddr (addr.extractLsb' 0 9) = addr := by
  apply BitVec.eq_of_toNat_eq
  rw [wideAddr, BitVec.toNat_setWidth, extractLsb'_register_toNat h]
  exact Nat.mod_eq_of_lt addr.isLt

/-- R85: the operation that a `WRITE` decodes to is the host's `WRITE` of the byte at the address, valid or not. -/
theorem exec_decodeWrite (addr : BitVec 16) (v : Byte) (s : State) :
    exec (decodeWrite addr v) s = hostWrite addr v s := by
  unfold decodeWrite
  split
  · rfl
  · next hupper =>
    have hvalid : addr.toNat ≤ 511 := extractLsb'_upper_eq_zero_iff.mp (not_not.mp hupper)
    rw [exec_decodeRegister, wideAddr_extractLsb' hvalid]

/-! ## Writing the byte already held (R66) -/

theorem Memory.wfFrom_cons_iff {lo b : Nat} {w : Byte} {m : Memory} :
    Memory.wfFrom lo ((b, w) :: m) = true ↔ (lo ≤ b ∧ b < 512 ∧ w ≠ unlisted) ∧ m.wfFrom (b + 1) = true := by
  simp only [Memory.wfFrom, Bool.and_eq_true, decide_eq_true_eq, and_assoc]

/-- In canonical form, storing the byte a location reads as is no change: an unlisted address stays unlisted. -/
theorem Memory.write_read_self {m : Memory} {lo : Nat} (hm : m.wfFrom lo = true) (a : Nat) : m.write a (m.read a) = m := by
  induction m generalizing lo with
  | nil => rfl
  | cons e m ih =>
    obtain ⟨b, w⟩ := e
    obtain ⟨⟨-, -, hlisted⟩, hrest⟩ := Memory.wfFrom_cons_iff.mp hm
    rcases lt_trichotomy a b with hlt | rfl | hgt
    · have hread : Memory.read m a = unlisted := Memory.read_below hrest (by omega)
      simp only [Memory.read, Memory.write, if_neg hlt.ne, hread, if_pos hlt, if_true]
    · simp only [Memory.read, Memory.write, if_true, if_neg (lt_irrefl a), if_neg hlisted]
    · simp only [Memory.read, Memory.write, if_neg hgt.ne', if_neg hgt.not_gt, ih hrest]

/-- R140: an unchanged register file moves no key signal, so nothing else changes either. -/
theorem regWrite_of_write_eq {c : Chip} {a : BitVec 9} {v : Byte} (h : c.regs.write a.toNat v = c.regs) :
    regWrite c a v = c := by
  have hops : mapOps (keyEdge c.regs c.regs) c.ops = c.ops := mapOps_id fun o => keyEdge_same rfl _
  simp only [regWrite, h, hops]

/-- R122: a `WRITE` up to 511 is `RegWrite` at its low nine bits. -/
theorem chipWrite_of_valid (c : Chip) {addr : BitVec 16} (hvalid : addr.toNat ≤ 511) (v : Byte) :
    chipWrite c addr v = regWrite c (addr.extractLsb' 0 9) v := if_neg (Nat.not_lt.mpr hvalid)

theorem chipWrite_read_self {c : Chip} (hwf : c.regs.wf = true) {addr : BitVec 16} (hvalid : addr.toNat ≤ 511) :
    chipWrite c addr (c.regs.read addr.toNat) = c := by
  rw [chipWrite_of_valid c hvalid]
  apply regWrite_of_write_eq
  rw [extractLsb'_register_toNat hvalid]
  exact Memory.write_read_self hwf addr.toNat

/-- Settles O17: whatever operation the address decodes to, it is the `WRITE` there, and that leaves the Chip State. -/
theorem rewritingTheSameByteChangesNothing : Obligations.RewritingTheSameByteChangesNothing := by
  intro addr s hi hwf hvalid
  rw [exec_decodeWrite, hostWrite_of_init hi, chipWrite_read_self hwf hvalid]
  rfl

end Sys2Proof.Machine
end

section
/-! The encoding (R80 to R88): the fields of a host word, the rows of the register map R86 as the decoder reads them, and the
encoder as the inverse of the decoder. -/

namespace Sys2Proof.Machine

/-! ## Host words (R80 to R84) -/

theorem decodeWord_hostWord_reset (rate : BitVec 32) : decodeWord (hostWord 0#2 rate) = .reset rate := by
  simp only [decodeWord, Laws.hostWord_cmd, Laws.hostWord_payload, if_true]

theorem decodeWord_hostWord_gen (p : BitVec 32) : decodeWord (hostWord 2#2 p) = .gen := by
  simp only [decodeWord, Laws.hostWord_cmd]
  rfl

theorem decodeWord_hostWord_getbuf (p : BitVec 32) : decodeWord (hostWord 3#2 p) = .getbuf := by
  simp only [decodeWord, Laws.hostWord_cmd]
  rfl

/-- R83: the byte `x` in `W[31:24]` of a `WRITE` is ignored. -/
theorem decodeWord_hostWord_write (x : Byte) (addr : BitVec 16) (v : Byte) :
    decodeWord (hostWord 1#2 (x ++ addr ++ v)) = decodeWrite addr v := by
  have haddr : (hostWord 1#2 (x ++ addr ++ v)).extractLsb' 8 16 = addr := by
    rw [hostWord, BitVec.extractLsb'_append_eq_of_add_le (by decide), BitVec.extractLsb'_append_eq_of_le (by decide)]
    exact BitVec.extractLsb'_append_eq_right
  have hv : (hostWord 1#2 (x ++ addr ++ v)).extractLsb' 0 8 = v := by
    rw [hostWord, BitVec.extractLsb'_append_eq_of_add_le (by decide)]
    exact BitVec.extractLsb'_append_eq_right
  simp only [decodeWord, Laws.hostWord_cmd, haddr, hv]
  rfl

theorem decodeWord_writeWord (addr : BitVec 16) (v : Byte) : decodeWord (writeWord addr v) = decodeWrite addr v :=
  decodeWord_hostWord_write 0#8 addr v

/-- R80: a host word written as a number is that word. -/
theorem decode_toNat (w : HostWord) : decode w.toNat = .ok (decodeWord w) := by
  rw [decode, if_pos w.isLt, BitVec.ofNat_toNat, BitVec.setWidth_eq]

/-! ## The address of a `WRITE` (R85) -/

theorem wideAddr_toNat (a : BitVec 9) : (wideAddr a).toNat = a.toNat :=
  BitVec.toNat_setWidth_of_le (by decide)

theorem decodeWrite_of_valid {addr : BitVec 16} (hvalid : addr.toNat ≤ 511) (v : Byte) :
    decodeWrite addr v = decodeRegister (addr.extractLsb' 0 9) v :=
  if_neg (not_not.mpr (extractLsb'_upper_eq_zero_iff.mpr hvalid))

theorem decodeWrite_of_outOfRange {addr : BitVec 16} (hoor : 511 < addr.toNat) (v : Byte) :
    decodeWrite addr v = .writeOor addr v :=
  if_pos fun hupper => absurd (extractLsb'_upper_eq_zero_iff.mp hupper) (Nat.not_le.mpr hoor)

theorem decodeWrite_wideAddr (a : BitVec 9) (v : Byte) : decodeWrite (wideAddr a) v = decodeRegister a v := by
  have hvalid : (wideAddr a).toNat ≤ 511 := by
    rw [wideAddr_toNat]
    exact Nat.le_of_lt_succ a.isLt
  have hlow : (wideAddr a).extractLsb' 0 9 = a :=
    BitVec.eq_of_toNat_eq ((extractLsb'_register_toNat hvalid).trans (wideAddr_toNat a))
  rw [decodeWrite_of_valid hvalid, hlow]

/-! ## The rows of the register map (R86) -/

/-- The operator rows of R86: the base of each register group and the `WRITE` there. -/
def operatorRows : List (Nat × (OpNum → Byte → Instr)) :=
  [(0x20, .writeOp20), (0x40, .writeOp40), (0x60, .writeOp60), (0x80, .writeOp80), (0xE0, .writeOpE0)]

/-- The channel rows of R86: the base of each register group and the `WRITE` there. -/
def channelRows : List (Nat × (ChanNum → Byte → Instr)) :=
  [(0xA0, .writeChA0), (0xB0, .writeChB0), (0xC0, .writeChC0)]

/-- R87 undoes R27: no address of an operator row is a named one, and its fields give back the operator and the group. -/
theorem opAddr_fields : ∀ base ∈ [0x20, 0x40, 0x60, 0x80, 0xE0], ∀ o : OpNum, isNamedAddr (opAddr base o) = false ∧
    opAtOffset ((opAddr base o).getLsbD 8) ((opAddr base o).extractLsb' 0 5) = some o ∧
    (opAddr base o).extractLsb' 5 3 = BitVec.ofNat 3 (base / 0x20) := by decide

/-- R88 undoes R28: no address of a channel row is a named or an operator one, and its fields give back the channel and the
group. -/
theorem chanAddr_fields : ∀ base ∈ [0xA0, 0xB0, 0xC0], ∀ c : ChanNum, isNamedAddr (chanAddr base c) = false ∧
    isOperatorAddr (chanAddr base c) = false ∧
    chanAtOffset ((chanAddr base c).getLsbD 8) ((chanAddr base c).extractLsb' 0 4) = some c ∧
    (chanAddr base c).extractLsb' 4 4 = BitVec.ofNat 4 (base / 0x10) := by decide

theorem ite_some_eq_none_iff {α : Type} {p : Prop} [Decidable p] {x : α} {e : Option α} :
    (if p then some x else e) = none ↔ ¬ p ∧ e = none := by
  split <;> simp [*]

theorem decodeNamed_eq_none_iff {a : BitVec 9} {v : Byte} : decodeNamed a v = none ↔ isNamedAddr a = false := by
  simp [decodeNamed, isNamedAddr, ite_some_eq_none_iff]

/-- R87: no operator row claims an address whose offset names no operator, or whose group has no operator register. -/
theorem decodeOperatorReg_eq_none_iff {a : BitVec 9} {v : Byte} :
    decodeOperatorReg a v = none ↔ isOperatorAddr a = false := by
  unfold decodeOperatorReg opAtOffset isOperatorAddr
  split_ifs with hoff
  · simp_all [ite_some_eq_none_iff]
  · simp_all

/-- R88: no channel row claims an address whose `lo[3:0]` names no channel, or whose `lo[7:4]` is no channel group. -/
theorem decodeChannelReg_eq_none_iff {a : BitVec 9} {v : Byte} :
    decodeChannelReg a v = none ↔ isChannelAddr a = false := by
  unfold decodeChannelReg chanAtOffset isChannelAddr
  split_ifs with hlow
  · simp_all [ite_some_eq_none_iff]
  · simp_all

theorem decodeNamed_eq_some {a : BitVec 9} {v : Byte} {i : Instr} (h : decodeNamed a v = some i) :
    i.wf = true ∧ encode i = writeWord (wideAddr a) v := by
  unfold decodeNamed at h
  split_ifs at h <;> cases h <;> subst a <;> exact ⟨rfl, rfl⟩

theorem decodeOperatorReg_eq_some_iff {a : BitVec 9} {v : Byte} {i : Instr} :
    decodeOperatorReg a v = some i ↔ ∃ row ∈ operatorRows, ∃ o, a = opAddr row.1 o ∧ i = row.2 o v := by
  constructor
  · intro h
    unfold decodeOperatorReg at h
    split at h
    case h_1 => cases h
    case h_2 o ho =>
      have haddr {base : Nat} (hbase : base = 0x20 * (a.extractLsb' 5 3).toNat) : a = opAddr base o :=
        (opAddr_of_opAtOffset ho hbase).symm
      dsimp only at h
      split_ifs at h with h1 h2 h3 h4 h7 <;> cases h
      · exact ⟨(0x20, _), by simp [operatorRows], o, haddr (by rw [h1]; rfl), rfl⟩
      · exact ⟨(0x40, _), by simp [operatorRows], o, haddr (by rw [h2]; rfl), rfl⟩
      · exact ⟨(0x60, _), by simp [operatorRows], o, haddr (by rw [h3]; rfl), rfl⟩
      · exact ⟨(0x80, _), by simp [operatorRows], o, haddr (by rw [h4]; rfl), rfl⟩
      · exact ⟨(0xE0, _), by simp [operatorRows], o, haddr (by rw [h7]; rfl), rfl⟩
  · rintro ⟨row, hrow, o, rfl, rfl⟩
    obtain ⟨-, hop, hgroup⟩ := opAddr_fields row.1 (List.mem_map_of_mem (f := Prod.fst) hrow) o
    simp only [decodeOperatorReg, hop, hgroup]
    fin_cases hrow <;> rfl

theorem decodeChannelReg_eq_some_iff {a : BitVec 9} {v : Byte} {i : Instr} :
    decodeChannelReg a v = some i ↔ ∃ row ∈ channelRows, ∃ c, a = chanAddr row.1 c ∧ i = row.2 c v := by
  constructor
  · intro h
    unfold decodeChannelReg at h
    split at h
    case h_1 => cases h
    case h_2 c hc =>
      have haddr {base : Nat} (hbase : base = 0x10 * (a.extractLsb' 4 4).toNat) : a = chanAddr base c :=
        (chanAddr_of_chanAtOffset hc hbase).symm
      dsimp only at h
      split_ifs at h with hA hB hC <;> cases h
      · exact ⟨(0xA0, _), by simp [channelRows], c, haddr (by rw [hA]; rfl), rfl⟩
      · exact ⟨(0xB0, _), by simp [channelRows], c, haddr (by rw [hB]; rfl), rfl⟩
      · exact ⟨(0xC0, _), by simp [channelRows], c, haddr (by rw [hC]; rfl), rfl⟩
  · rintro ⟨row, hrow, c, rfl, rfl⟩
    obtain ⟨-, -, hchan, hgroup⟩ := chanAddr_fields row.1 (List.mem_map_of_mem (f := Prod.fst) hrow) c
    simp only [decodeChannelReg, hchan, hgroup]
    fin_cases hrow <;> rfl

/-! ## The `WRITE` at a valid address (R85, R102) -/

theorem isReservedAddr_iff {a : BitVec 9} :
    isReservedAddr a = true ↔ isNamedAddr a = false ∧ isOperatorAddr a = false ∧ isChannelAddr a = false := by
  simp only [isReservedAddr, Bool.and_eq_true, Bool.not_eq_true', and_assoc]

theorem decodeRegister_opAddr {row : Nat × (OpNum → Byte → Instr)} (hrow : row ∈ operatorRows) (o : OpNum) (v : Byte) :
    decodeRegister (opAddr row.1 o) v = row.2 o v := by
  obtain ⟨hnamed, -, -⟩ := opAddr_fields row.1 (List.mem_map_of_mem (f := Prod.fst) hrow) o
  simp only [decodeRegister, decodeNamed_eq_none_iff.mpr hnamed,
    decodeOperatorReg_eq_some_iff.mpr ⟨row, hrow, o, rfl, rfl⟩]

theorem decodeRegister_chanAddr {row : Nat × (ChanNum → Byte → Instr)} (hrow : row ∈ channelRows) (c : ChanNum) (v : Byte) :
    decodeRegister (chanAddr row.1 c) v = row.2 c v := by
  obtain ⟨hnamed, hop, -, -⟩ := chanAddr_fields row.1 (List.mem_map_of_mem (f := Prod.fst) hrow) c
  simp only [decodeRegister, decodeNamed_eq_none_iff.mpr hnamed, decodeOperatorReg_eq_none_iff.mpr hop,
    decodeChannelReg_eq_some_iff.mpr ⟨row, hrow, c, rfl, rfl⟩]

theorem decodeRegister_of_reserved {a : BitVec 9} (h : isReservedAddr a = true) (v : Byte) :
    decodeRegister a v = .writeRsvd a v := by
  obtain ⟨hnamed, hop, hchan⟩ := isReservedAddr_iff.mp h
  simp only [decodeRegister, decodeNamed_eq_none_iff.mpr hnamed, decodeOperatorReg_eq_none_iff.mpr hop,
    decodeChannelReg_eq_none_iff.mpr hchan]

/-- R85, R107: whichever row claims a valid address, the operation is well formed and its canonical word names the address. -/
theorem decodeRegister_wf_and_encode (a : BitVec 9) (v : Byte) :
    (decodeRegister a v).wf = true ∧ encode (decodeRegister a v) = writeWord (wideAddr a) v := by
  unfold decodeRegister
  split
  case h_1 i hnamed => exact decodeNamed_eq_some hnamed
  case h_2 hnamed =>
    split
    case h_1 i hop =>
      obtain ⟨row, hrow, o, rfl, rfl⟩ := decodeOperatorReg_eq_some_iff.mp hop
      fin_cases hrow <;> exact ⟨rfl, rfl⟩
    case h_2 hop =>
      split
      case h_1 i hchan =>
        obtain ⟨row, hrow, c, rfl, rfl⟩ := decodeChannelReg_eq_some_iff.mp hchan
        fin_cases hrow <;> exact ⟨rfl, rfl⟩
      case h_2 hchan =>
        exact ⟨isReservedAddr_iff.mpr ⟨decodeNamed_eq_none_iff.mp hnamed, decodeOperatorReg_eq_none_iff.mp hop,
          decodeChannelReg_eq_none_iff.mp hchan⟩, rfl⟩

/-- R102: a reserved operation is decoded at the reserved addresses only, since what is decoded is well formed. -/
theorem decodeRegister_eq_writeRsvd_iff {a : BitVec 9} {v : Byte} :
    decodeRegister a v = .writeRsvd a v ↔ isReservedAddr a = true := by
  refine ⟨fun h => ?_, fun h => decodeRegister_of_reserved h v⟩
  obtain ⟨hwf, -⟩ := decodeRegister_wf_and_encode a v
  rwa [h] at hwf

/-! ## The `WRITE` at any address -/

theorem decodeWrite_wf_and_encode (addr : BitVec 16) (v : Byte) :
    (decodeWrite addr v).wf = true ∧ encode (decodeWrite addr v) = writeWord addr v := by
  rcases Nat.lt_or_ge 511 addr.toNat with hoor | hvalid
  · rw [decodeWrite_of_outOfRange hoor]
    exact ⟨decide_eq_true hoor, rfl⟩
  · rw [decodeWrite_of_valid hvalid]
    simpa only [wideAddr_extractLsb' hvalid] using decodeRegister_wf_and_encode (addr.extractLsb' 0 9) v

/-! ## Decoding and encoding are inverse -/

theorem decodeWord_wf (w : HostWord) : (decodeWord w).wf = true := by
  unfold decodeWord
  dsimp only
  split_ifs
  · rfl
  · exact (decodeWrite_wf_and_encode _ _).1
  · rfl
  · rfl

/-- The canonical word of a `WRITE` at a valid address decodes by the register map. -/
theorem decodeWord_writeWord_wideAddr (a : BitVec 9) (v : Byte) :
    decodeWord (writeWord (wideAddr a) v) = decodeRegister a v :=
  (decodeWord_writeWord _ v).trans (decodeWrite_wideAddr a v)

theorem decodeWord_encode_of_operatorRow {row : Nat × (OpNum → Byte → Instr)} (hrow : row ∈ operatorRows) (o : OpNum)
    (v : Byte) : decodeWord (writeWord (wideAddr (opAddr row.1 o)) v) = row.2 o v :=
  (decodeWord_writeWord_wideAddr _ v).trans (decodeRegister_opAddr hrow o v)

theorem decodeWord_encode_of_channelRow {row : Nat × (ChanNum → Byte → Instr)} (hrow : row ∈ channelRows) (c : ChanNum)
    (v : Byte) : decodeWord (writeWord (wideAddr (chanAddr row.1 c)) v) = row.2 c v :=
  (decodeWord_writeWord_wideAddr _ v).trans (decodeRegister_chanAddr hrow c v)

/-- R80 to R88, R107: the decoder undoes the encoder on every well-formed operation. -/
theorem decodeWord_encode {i : Instr} (hwf : i.wf = true) : decodeWord (encode i) = i := by
  cases i with
  | reset rate => exact decodeWord_hostWord_reset rate
  | gen => exact decodeWord_hostWord_gen _
  | getbuf => exact decodeWord_hostWord_getbuf _
  | writeRsvd a v => exact (decodeWord_writeWord_wideAddr a v).trans (decodeRegister_of_reserved hwf v)
  | writeOor addr v => exact (decodeWord_writeWord addr v).trans (decodeWrite_of_outOfRange (of_decide_eq_true hwf) v)
  | writeOp20 o v => exact decodeWord_encode_of_operatorRow (row := (0x20, .writeOp20)) (by simp [operatorRows]) o v
  | writeOp40 o v => exact decodeWord_encode_of_operatorRow (row := (0x40, .writeOp40)) (by simp [operatorRows]) o v
  | writeOp60 o v => exact decodeWord_encode_of_operatorRow (row := (0x60, .writeOp60)) (by simp [operatorRows]) o v
  | writeOp80 o v => exact decodeWord_encode_of_operatorRow (row := (0x80, .writeOp80)) (by simp [operatorRows]) o v
  | writeOpE0 o v => exact decodeWord_encode_of_operatorRow (row := (0xE0, .writeOpE0)) (by simp [operatorRows]) o v
  | writeChA0 c v => exact decodeWord_encode_of_channelRow (row := (0xA0, .writeChA0)) (by simp [channelRows]) c v
  | writeChB0 c v => exact decodeWord_encode_of_channelRow (row := (0xB0, .writeChB0)) (by simp [channelRows]) c v
  | writeChC0 c v => exact decodeWord_encode_of_channelRow (row := (0xC0, .writeChC0)) (by simp [channelRows]) c v
  | writeReg01 v | writeReg02 v | writeReg03 v | writeReg04 v | writeNts v | writeConn4 v | writeNew v | writeBd v =>
    exact (decodeWord_writeWord _ v).trans rfl

/-- Settles O2: the words are constants. -/
theorem sampleWordsDecode : Obligations.SampleWordsDecode := by
  unfold Obligations.SampleWordsDecode
  decide

/-- Settles O3: a canonical word as a number is the word itself. -/
theorem decodeOfEncode : Obligations.DecodeOfEncode := fun i hwf =>
  ⟨decodeWord_encode hwf, (decode_toNat (encode i)).trans (congrArg _ (decodeWord_encode hwf))⟩

/-- Settles O4: the operands by the layout of the word, the emitted zeros by the row that claims the address. -/
theorem fieldsOfAHostWord : Obligations.FieldsOfAHostWord :=
  ⟨fun rate => ⟨decodeWord_hostWord_reset rate, rfl⟩,
    fun x addr v => ⟨decodeWord_hostWord_write x addr v, (decodeWrite_wf_and_encode addr v).2⟩,
    fun p => ⟨decodeWord_hostWord_gen p, decodeWord_hostWord_getbuf p⟩, rfl, rfl⟩

/-- Settles O5: a decoded term is well formed by the row that claims its address, and so reserved only where it says. -/
theorem decodedOperationsAreWellFormed : Obligations.DecodedOperationsAreWellFormed :=
  ⟨decodeWord_wf, fun _ _ => decodeRegister_eq_writeRsvd_iff⟩

end Sys2Proof.Machine
end

section
/-! The registers that a rule reads: a byte at any other address moves no decoded field (R101, R102, R164), a byte outside the
key registers moves no key signal (R142), and so the `WRITE` of such a byte only stores it. -/

namespace Sys2Proof.Machine

/-! ## The register space after a store (R66) -/

theorem Memory.holdsAt_write {m : Memory} (hwf : m.wf = true) (a : BitVec 9) (v : Byte) :
    Memory.HoldsAt (m.write a.toNat v) a v m :=
  ⟨Memory.reg_write_self hwf a v, fun _ hne => Memory.reg_write_other m v hne⟩

/-! ## The registers behind the key signals (R142) -/

/-- The registers that the key signals are views of (R141 to R144) hold the same bytes in both files. -/
def Memory.SameKeyRegisters (m m' : Memory) : Prop :=
  m.reg 0x0BD#9 = m'.reg 0x0BD#9 ∧ m.reg 0x104#9 = m'.reg 0x104#9 ∧ m.reg 0x105#9 = m'.reg 0x105#9 ∧
    ∀ c : ChanNum, m.chanReg 0xB0 c = m'.chanReg 0xB0 c

section
variable {m m' : Memory}

theorem pairInEffect_congr (h : m.SameKeyRegisters m') : pairInEffect m = pairInEffect m' := by
  obtain ⟨-, h104, h105, -⟩ := h
  funext n
  simp only [pairInEffect, fNEW, fCONN4, h104, h105]

theorem pairFirst_congr (h : m.SameKeyRegisters m') : pairFirst m = pairFirst m' := by
  funext c
  simp only [pairFirst, pairInEffect_congr h]

theorem pairSecond_congr (h : m.SameKeyRegisters m') : pairSecond m = pairSecond m' := by
  funext c
  simp only [pairSecond, pairInEffect_congr h]

theorem ctl_congr (h : m.SameKeyRegisters m') : ctl m = ctl m' := by
  funext o
  simp only [ctl, pairSecond_congr h]

theorem keyDrum_congr (h : m.SameKeyRegisters m') : keyDrum m = keyDrum m' := by
  obtain ⟨hBD, -, -, -⟩ := h
  funext o
  simp only [keyDrum, instrumentBit, fRYT, fBD, fSD, fTOM, fTC, fHH, hBD]

theorem key_congr (h : m.SameKeyRegisters m') : key m = key m' := by
  obtain ⟨-, -, -, hB0⟩ := id h
  funext o
  simp only [key, fKON, ctl_congr h, keyDrum_congr h, hB0]

end

/-- R142: a store anywhere but at 0x0BD, 0x104, 0x105 and the `CHB0` registers leaves the key registers. -/
theorem Memory.sameKeyRegisters_write (m : Memory) {a : BitVec 9} (v : Byte) (hBD : a ≠ 0x0BD#9) (hCONN4 : a ≠ 0x104#9)
    (hNEW : a ≠ 0x105#9) (hCHB0 : ∀ c : ChanNum, a ≠ chanAddr 0xB0 c) :
    Memory.SameKeyRegisters (m.write a.toNat v) m :=
  ⟨Memory.reg_write_other m v hBD.symm, Memory.reg_write_other m v hCONN4.symm, Memory.reg_write_other m v hNEW.symm,
    fun c => Memory.reg_write_other m v (hCHB0 c).symm⟩

/-- R140: a `WRITE` that leaves the key registers performs no key action, so it only stores the byte. -/
theorem hostWrite_eq_stored {s : State} (hi : s.chip.init = true) {a : BitVec 9} {v : Byte}
    (hkeys : Memory.SameKeyRegisters (s.chip.regs.write a.toNat v) s.chip.regs) :
    hostWrite (wideAddr a) v s = .next (s.stored a v) := by
  have hops : mapOps (keyEdge s.chip.regs (s.chip.regs.write a.toNat v)) s.chip.ops = s.chip.ops :=
    mapOps_id fun o => keyEdge_same (congrFun (key_congr hkeys) o).symm _
  rw [hostWrite_of_init hi, chipWrite_wideAddr]
  simp only [regWrite, hops]
  rfl

/-! ## The addresses with a function (R101, R102) -/

theorem hasFunction_of_reserved {a : BitVec 9} (h : isReservedAddr a = true) : hasFunction a = false := by
  simp only [hasFunction, h, Bool.not_true, Bool.false_and]

theorem hasFunction_opAddr : ∀ base ∈ [0x20, 0x40, 0x60, 0x80, 0xE0], ∀ o : OpNum, hasFunction (opAddr base o) = true := by
  decide

theorem hasFunction_chanAddr : ∀ base ∈ [0xA0, 0xB0, 0xC0], ∀ c : ChanNum, hasFunction (chanAddr base c) = true := by
  decide

section
variable {m m' : Memory}

theorem Memory.SameFunction.opReg_eq (h : m.SameFunction m') {base : Nat} (hbase : base ∈ [0x20, 0x40, 0x60, 0x80, 0xE0])
    (o : OpNum) : m.opReg base o = m'.opReg base o := h _ (hasFunction_opAddr base hbase o)

theorem Memory.SameFunction.chanReg_eq (h : m.SameFunction m') {base : Nat} (hbase : base ∈ [0xA0, 0xB0, 0xC0])
    (c : ChanNum) : m.chanReg base c = m'.chanReg base c := h _ (hasFunction_chanAddr base hbase c)

theorem Memory.SameFunction.sameKeyRegisters (h : m.SameFunction m') : m.SameKeyRegisters m' :=
  ⟨h _ rfl, h _ rfl, h _ rfl, h.chanReg_eq (by decide)⟩

/-- R23: every decoded field is a view of registers with a function. -/
theorem Memory.SameFunction.sameFields (h : m.SameFunction m') : m.SameFields m' := by
  obtain ⟨hBD, h104, h105, -⟩ := h.sameKeyRegisters
  refine ⟨?_, fun c => ?_, fun o => ?_⟩
  · simp only [fNEW, fCONN4, fNTS, fDAM, fDVB, fRYT, fBD, fSD, fTOM, fTC, fHH, h 0x008#9 rfl, hBD, h104, h105, and_self]
  · simp only [fFNUM, fBLOCK, fKON, fFB, fCNT, fOUT, h.chanReg_eq (base := 0xA0) (by decide),
      h.chanReg_eq (base := 0xB0) (by decide), h.chanReg_eq (base := 0xC0) (by decide), and_self, implies_true]
  · simp only [fAM, fVIB, fEGT, fKSR, fMULT, fKSL, fTL, fAR, fDR, fSL, fRR, fWS, h.opReg_eq (base := 0x20) (by decide),
      h.opReg_eq (base := 0x40) (by decide), h.opReg_eq (base := 0x60) (by decide), h.opReg_eq (base := 0x80) (by decide),
      h.opReg_eq (base := 0xE0) (by decide), and_self]

/-- A byte stored where no rule reads. -/
theorem Memory.sameFunction_write_self (m : Memory) {a : BitVec 9} (ha : hasFunction a = false) (v : Byte) :
    Memory.SameFunction (m.write a.toNat v) m := fun b hb =>
  Memory.reg_write_other m v fun hba => by simp [← hba, hb] at ha

/-- The same byte stored at the same place. -/
theorem Memory.SameFunction.write (h : m.SameFunction m') (hwf : m.wf = true) (hwf' : m'.wf = true) (a : BitVec 9)
    (v : Byte) : Memory.SameFunction (m.write a.toNat v) (m'.write a.toNat v) := by
  intro b hb
  by_cases hba : b = a
  · rw [hba, Memory.reg_write_self hwf, Memory.reg_write_self hwf']
  · rw [Memory.reg_write_other m v hba, Memory.reg_write_other m' v hba, h b hb]

end

/-! ## `WRITE` at a reserved address (R164) -/

/-- Settles O19: no rule reads a reserved address, so the store moves no field and no key signal. -/
theorem reservedWriteOnlyStores : Obligations.ReservedWriteOnlyStores := by
  intro a v s hi hwf hreserved
  have hsame : Memory.SameFunction (s.chip.regs.write a.toNat v) s.chip.regs :=
    Memory.sameFunction_write_self _ (hasFunction_of_reserved hreserved) v
  exact ⟨hostWrite_eq_stored hi hsame.sameKeyRegisters, Memory.holdsAt_write hwf a v, hsame.sameFields⟩

/-! ## `WRITE` at the channel registers that move no key (R160, R162) -/

/-- R86: the `CHA0` and `CHC0` registers are none of the key registers. -/
theorem chanAddr_ne_keyRegister : ∀ base ∈ [0xA0, 0xC0], ∀ c : ChanNum, chanAddr base c ≠ 0x0BD#9 ∧
    chanAddr base c ≠ 0x104#9 ∧ chanAddr base c ≠ 0x105#9 ∧ ∀ d : ChanNum, chanAddr base c ≠ chanAddr 0xB0 d := by decide

theorem Memory.sameKeyRegisters_write_chanAddr (m : Memory) {base : Nat} (hbase : base ∈ [0xA0, 0xC0]) (c : ChanNum)
    (v : Byte) : Memory.SameKeyRegisters (m.write (chanAddr base c).toNat v) m := by
  obtain ⟨hBD, hCONN4, hNEW, hCHB0⟩ := chanAddr_ne_keyRegister base hbase c
  exact Memory.sameKeyRegisters_write m v hBD hCONN4 hNEW hCHB0

theorem Memory.chanReg_write_self {m : Memory} (hwf : m.wf = true) (base : Nat) (c : ChanNum) (v : Byte) :
    Memory.chanReg (m.write (chanAddr base c).toNat v) base c = v := Memory.reg_write_self hwf _ v

/-- R103: the high bits of `FNUM` are those of the `CHB0` register. -/
theorem fFNUM_high (m : Memory) (c : ChanNum) : (fFNUM m c).extractLsb' 8 2 = (m.chanReg 0xB0 c).extractLsb' 0 2 :=
  BitVec.extractLsb'_append_eq_left

/-- Settles O26: the `CHB0` register of the channel, a key register, keeps the high bits. -/
theorem channelFrequencyWrite : Obligations.ChannelFrequencyWrite := by
  intro c v s hi hwf a m1
  have hkeys : Memory.SameKeyRegisters m1 s.chip.regs := Memory.sameKeyRegisters_write_chanAddr _ (by decide) c v
  obtain ⟨-, -, -, hB0⟩ := id hkeys
  refine ⟨hostWrite_eq_stored hi hkeys, Memory.holdsAt_write hwf a v, ?_⟩
  have hA0 : m1.chanReg 0xA0 c = v := Memory.chanReg_write_self hwf 0xA0 c v
  rw [fFNUM_high, fFNUM, hB0, hA0]

/-- Settles O27: every field is a bit field of the byte just stored. -/
theorem channelRoutingWrite : Obligations.ChannelRoutingWrite := by
  intro c v s hi hwf a m1
  have hC0 : m1.chanReg 0xC0 c = v := Memory.chanReg_write_self hwf 0xC0 c v
  refine ⟨hostWrite_eq_stored hi (Memory.sameKeyRegisters_write_chanAddr _ (by decide) c v), Memory.holdsAt_write hwf a v, ?_⟩
  unfold fOUT fFB fCNT
  rw [hC0]
  exact ⟨rfl, rfl, rfl, rfl, rfl, rfl⟩

end Sys2Proof.Machine
end

section
/-! Bytes that no rule reads are never observed (R102, R148 to R151, R164): the whole engine is a function of the decoded fields
(R23), so two states that differ in such bytes only step alike. -/

namespace Sys2Proof.Machine

/-! ## The units of the engine -/

section
variable {m m' : Memory}

theorem kslAtt_congr (h : m.SameFunction m') : kslAtt m = kslAtt m' := by
  obtain ⟨-, hchan, hop⟩ := h.sameFields
  funext o
  simp only [kslAtt, ctl_congr h.sameKeyRegisters, hchan, hop]

theorem attOf_congr (h : m.SameFunction m') : attOf m = attOf m' := by
  obtain ⟨hglobal, -, hop⟩ := h.sameFields
  funext tp o op
  simp only [attOf, tremAtt, kslAtt_congr h, hglobal, hop]

theorem wsEff_congr (h : m.SameFunction m') : wsEff m = wsEff m' := by
  obtain ⟨hglobal, -, hop⟩ := h.sameFields
  funext o
  simp only [wsEff, hglobal, hop]

theorem chanMode_congr (h : m.SameFunction m') : chanMode m = chanMode m' := by
  obtain ⟨hglobal, -, -⟩ := h.sameFields
  funext c
  simp only [chanMode, pairFirst_congr h.sameKeyRegisters, pairSecond_congr h.sameKeyRegisters, hglobal]

theorem modIn_congr (h : m.SameFunction m') : modIn m = modIn m' := by
  obtain ⟨-, hchan, -⟩ := h.sameFields
  funext ops o
  simp only [modIn, fbMod, chanMode_congr h, ctl_congr h.sameKeyRegisters, hchan]

theorem phaseIn_congr (h : m.SameFunction m') : phaseIn m = phaseIn m' := by
  obtain ⟨hglobal, -, -⟩ := h.sameFields
  funext n ops o
  simp only [phaseIn, modulatedPos, modIn_congr h, hglobal]

theorem opSample_congr (h : m.SameFunction m') : opSample m = opSample m' := by
  funext tp n ops o
  simp only [opSample, wsEff_congr h, phaseIn_congr h, attOf_congr h]

theorem chanOut_congr (h : m.SameFunction m') : chanOut m = chanOut m' := by
  obtain ⟨-, hchan, -⟩ := h.sameFields
  funext ops c
  simp only [chanOut, chanMode_congr h, hchan]

theorem panEff_congr (h : m.SameFunction m') : panEff m = panEff m' := by
  obtain ⟨hglobal, hchan, -⟩ := h.sameFields
  funext c x
  simp only [panEff, hglobal, hchan]

theorem nativeFrame_congr (h : m.SameFunction m') : nativeFrame m = nativeFrame m' := by
  funext ops
  simp only [nativeFrame, mix, panEff_congr h, chanOut_congr h]

theorem rateOf_congr (h : m.SameFunction m') : rateOf m = rateOf m' := by
  obtain ⟨hglobal, hchan, hop⟩ := h.sameFields
  funext o r
  simp only [rateOf, ksv, ctl_congr h.sameKeyRegisters, hglobal, hchan, hop]

theorem envAdvance_congr (h : m.SameFunction m') : envAdvance m = envAdvance m' := by
  obtain ⟨-, -, hop⟩ := h.sameFields
  funext t o op
  simp only [envAdvance, sustainTarget, slx, rateOf_congr h, hop]

theorem phaseAdvance_congr (h : m.SameFunction m') : phaseAdvance m = phaseAdvance m' := by
  obtain ⟨hglobal, hchan, hop⟩ := h.sameFields
  funext vp o op
  simp only [phaseAdvance, phaseInc, fnumVib, vibOffset, ctl_congr h.sameKeyRegisters, hglobal, hchan, hop]

/-- R140: a key edge reads the key signals of both files, and the attack rate of the file after the store. -/
theorem keyEdge_congr {w w' : Memory} (h : m.SameFunction m') (hw : w.SameFunction w') : keyEdge m w = keyEdge m' w' := by
  obtain ⟨-, -, hop⟩ := hw.sameFields
  funext o op
  simp only [keyEdge_eq, key_congr h.sameKeyRegisters, key_congr hw.sameKeyRegisters, rateOf_congr hw, hop]

end

/-! ## The Chip State -/

section
variable {c d : Chip} {m : Memory}

theorem nativeTick_withRegs (h : c.regs.SameFunction m) :
    nativeTick { c with regs := m } = ({ (nativeTick c).1 with regs := m }, (nativeTick c).2) := by
  have hsample : sampleOp c.regs = sampleOp m := by
    funext tp n ops o
    simp only [sampleOp, opSample_congr h]
  simp only [nativeTick, pass1, pass2, hsample, envAdvance_congr h, phaseAdvance_congr h, nativeFrame_congr h]

theorem resampleTick_withRegs (h : c.regs.SameFunction m) :
    resampleTick { c with regs := m } = { resampleTick c with regs := m } := by
  simp only [resampleTick, nativeTick_withRegs h]

theorem tickLoop_withRegs (n : Nat) (h : c.regs.SameFunction m) :
    tickLoop n { c with regs := m } = { tickLoop n c with regs := m } := by
  induction n generalizing c with
  | zero => rfl
  | succ n ih =>
    unfold tickLoop
    split
    · rw [resampleTick_withRegs h]
      exact ih (by rwa [resampleTick_regs])
    · rfl

theorem chipGen_withRegs (h : c.regs.SameFunction m) : chipGen { c with regs := m } = { chipGen c with regs := m } := by
  simp only [chipGen, tickLoop_withRegs _ h]
  rfl

theorem regWrite_withRegs {a : BitVec 9} {v : Byte} (h : c.regs.SameFunction m)
    (hw : Memory.SameFunction (c.regs.write a.toNat v) (m.write a.toNat v)) :
    regWrite { c with regs := m } a v = { regWrite c a v with regs := m.write a.toNat v } := by
  simp only [regWrite, keyEdge_congr h hw]

theorem Chip.sameButUnread_iff : c.SameButUnread d ↔
    ∃ m : Memory, c.regs.wf = true ∧ m.wf = true ∧ c.regs.SameFunction m ∧ d = { c with regs := m } := by
  constructor
  · exact fun h => ⟨d.regs, h⟩
  · rintro ⟨m, hwf, hwf', hsame, rfl⟩
    exact ⟨hwf, hwf', hsame, rfl⟩

theorem Chip.sameButUnread_refl (hwf : c.regs.wf = true) : c.SameButUnread c := ⟨hwf, hwf, fun _ _ => rfl, rfl⟩

/-- `init`, the ratio and the output buffer are no register bytes. -/
theorem Chip.SameButUnread.host_fields (h : c.SameButUnread d) :
    d.init = c.init ∧ d.rateratio = c.rateratio ∧ d.outbuf = c.outbuf := by
  obtain ⟨m, -, -, -, rfl⟩ := Chip.sameButUnread_iff.mp h
  exact ⟨rfl, rfl, rfl⟩

theorem Chip.SameButUnread.chipGen (h : c.SameButUnread d) : (chipGen c).SameButUnread (chipGen d) := by
  obtain ⟨m, hwf, hwf', hsame, rfl⟩ := Chip.sameButUnread_iff.mp h
  refine Chip.sameButUnread_iff.mpr ⟨m, ?_, hwf', ?_, chipGen_withRegs hsame⟩ <;> rwa [chipGen_regs]

theorem Chip.SameButUnread.regWrite (h : c.SameButUnread d) (a : BitVec 9) (v : Byte) :
    (regWrite c a v).SameButUnread (regWrite d a v) := by
  obtain ⟨m, hwf, hwf', hsame, rfl⟩ := Chip.sameButUnread_iff.mp h
  have hwrite := hsame.write hwf hwf' a v
  exact Chip.sameButUnread_iff.mpr
    ⟨_, Memory.write_wf hwf a v, Memory.write_wf hwf' a v, hwrite, regWrite_withRegs hsame hwrite⟩

theorem Chip.SameButUnread.chipWrite (h : c.SameButUnread d) (addr : BitVec 16) (v : Byte) :
    (chipWrite c addr v).SameButUnread (chipWrite d addr v) := by
  unfold Machine.chipWrite
  split
  · exact h
  · exact h.regWrite _ v

end

/-! ## The operations and the step -/

section
variable {s t : State}

theorem State.SameButUnread.completed (h : s.SameButUnread t) {c d : Chip} (hchip : c.SameButUnread d) (r : Reply) :
    (s.completed c r).SameButUnread (t.completed d r) := by
  obtain ⟨-, hpending, -⟩ := h
  exact ⟨hchip, hpending, rfl⟩

/-- R125: the guard on `init` refuses in both states or in neither. -/
theorem State.SameButUnread.outcomesAgree_whenInit (h : s.SameButUnread t)
    {x y : Host.Outcome State Fault Refusal} (hxy : outcomesAgree x y) :
    outcomesAgree (whenInit s x) (whenInit t y) := by
  obtain ⟨hchip, -, -⟩ := h
  obtain ⟨hinit, -, -⟩ := hchip.host_fields
  unfold whenInit
  rw [hinit]
  split
  · exact hxy
  · rfl

theorem State.SameButUnread.outcomesAgree_execGen (h : s.SameButUnread t) : outcomesAgree (execGen s) (execGen t) := by
  obtain ⟨hchip, -, -⟩ := id h
  obtain ⟨-, hratio, -⟩ := hchip.host_fields
  obtain ⟨-, -, houtbuf⟩ := hchip.chipGen.host_fields
  refine h.outcomesAgree_whenInit ?_
  rw [hratio, houtbuf]
  split
  · rfl
  · exact h.completed hchip.chipGen _

theorem State.SameButUnread.outcomesAgree_exec (h : s.SameButUnread t) (i : Instr) :
    outcomesAgree (exec i s) (exec i t) := by
  obtain ⟨hchip, -, -⟩ := id h
  rcases exec_cases i with ⟨rate, rfl⟩ | rfl | rfl | ⟨addr, v, hwrite⟩
  case inl => exact h.completed (Chip.sameButUnread_refl (c := Chip.afterReset rate) rfl) .void
  case inr.inl => exact h.outcomesAgree_execGen
  case inr.inr.inl => exact h.outcomesAgree_whenInit (h.completed hchip _)
  case inr.inr.inr =>
    rw [hwrite s, hwrite t]
    exact h.outcomesAgree_whenInit (h.completed (hchip.chipWrite addr v) .void)

end

/-- Settles O54: both states have the same operation next, and every operation runs alike on them. -/
theorem unreadBytesAreNeverObserved : Obligations.UnreadBytesAreNeverObserved := by
  intro s t h
  obtain ⟨hchip, hpending, hreply⟩ := id h
  cases hp : s.pending with
  | nil =>
    rw [step_of_pending_nil hp, step_of_pending_nil (hpending ▸ hp)]
    exact h
  | cons w rest =>
    rw [step_of_pending_cons hp, step_of_pending_cons (hpending ▸ hp)]
    have hrest : State.SameButUnread { s with pending := rest } { t with pending := rest } := ⟨hchip, rfl, hreply⟩
    exact hrest.outcomesAgree_exec (decodeWord w)

end Sys2Proof.Machine
end

section
/-! The phase step (R105, R181, R182): the vibrato offset by vibrato position, the step from the fields, and its range. -/

namespace Sys2Proof.Machine

/-! ## Vibrato (R181) -/

/-- R181: the depth of the vibrato, `FNUM[9:7]`, halved with `DVB` = 0. -/
def vibDepth (m : Memory) (f : BitVec 10) : Nat := f.toNat / 128 / (if fDVB m then 1 else 2)

theorem vibDepth_le (m : Memory) (f : BitVec 10) : vibDepth m f ≤ f.toNat / 128 := Nat.div_le_self _ _

theorem vibPos_cases : ∀ vp : BitVec 3, vp = 0#3 ∨ vp = 1#3 ∨ vp = 2#3 ∨ vp = 3#3 ∨ vp = 4#3 ∨ vp = 5#3 ∨ vp = 6#3 ∨
    vp = 7#3 := by decide

/-- R181: over each half of the vibrato cycle the size of the offset is 0, half the depth, the depth, half the depth. -/
theorem vibOffset_eq (m : Memory) (vp : BitVec 3) (f : BitVec 10) :
    vibOffset m vp f = [0, vibDepth m f / 2, vibDepth m f, vibDepth m f / 2].getD (vp.toNat % 4) 0 := by
  have hr : (f.extractLsb' 7 3).toNat = f.toNat / 128 := by
    have hf := f.isLt
    rw [BitVec.extractLsb'_toNat, Nat.shiftRight_eq_div_pow]
    omega
  unfold vibOffset vibDepth
  rw [hr]
  rcases vibPos_cases vp with rfl | rfl | rfl | rfl | rfl | rfl | rfl | rfl <;> cases fDVB m <;>
    simp [Nat.shiftRight_eq_div_pow]

/-- R181: at no position is the offset larger than the depth. -/
theorem vibOffset_le (m : Memory) (vp : BitVec 3) (f : BitVec 10) : vibOffset m vp f ≤ f.toNat / 128 := by
  have hdepth := vibDepth_le m f
  rw [vibOffset_eq]
  rcases vibPos_cases vp with rfl | rfl | rfl | rfl | rfl | rfl | rfl | rfl <;> simp <;> omega

theorem fnumVib_of_not_vib {m : Memory} {o : OpNum} (hvib : fVIB m o = false) (vp : BitVec 3) :
    fnumVib m vp o = (fFNUM m (ctl m o)).toNat := by
  simp only [fnumVib, hvib, Bool.false_eq_true, if_false]

/-- R181: the offset is added in the first half of the vibrato cycle and taken off in the second, where it never exceeds the
frequency number. -/
theorem fnumVib_of_vib {m : Memory} {o : OpNum} (hvib : fVIB m o = true) (vp : BitVec 3) :
    let r : Int := vibDepth m (fFNUM m (ctl m o))
    (fnumVib m vp o : Int) = (fFNUM m (ctl m o)).toNat + [0, r / 2, r, r / 2, 0, -(r / 2), -r, -(r / 2)].getD vp.toNat 0 := by
  have hdepth := vibDepth_le m (fFNUM m (ctl m o))
  simp only [fnumVib, hvib, if_true, vibOffset_eq]
  rcases vibPos_cases vp with rfl | rfl | rfl | rfl | rfl | rfl | rfl | rfl <;> simp <;> omega

theorem fnumVib_le (m : Memory) (vp : BitVec 3) (o : OpNum) : fnumVib m vp o ≤ 1030 := by
  have hf := (fFNUM m (ctl m o)).isLt
  have hoffset := vibOffset_le m vp (fFNUM m (ctl m o))
  unfold fnumVib
  dsimp only
  split_ifs <;> omega

/-! ## The phase step (R105, R182) -/

theorem multOf_le : ∀ mult : BitVec 4, multOf mult ≤ 30 := by decide

theorem phaseInc_eq (m : Memory) (vp : BitVec 3) (o : OpNum) :
    phaseInc m vp o = fnumVib m vp o * 2 ^ (fBLOCK m (ctl m o)).toNat / 2 * multOf (fMULT m o) / 2 := by
  simp only [phaseInc, Nat.shiftLeft_eq, Nat.shiftRight_eq_div_pow, Nat.pow_one]

/-- R182: the largest step, at the largest frequency number, block 7 and multiplier 15. -/
theorem phaseInc_le (m : Memory) (vp : BitVec 3) (o : OpNum) : phaseInc m vp o ≤ 988800 := by
  have hpow : 2 ^ (fBLOCK m (ctl m o)).toNat ≤ 2 ^ 7 :=
    Nat.pow_le_pow_right (by decide) (Nat.le_of_lt_succ (fBLOCK m (ctl m o)).isLt)
  rw [phaseInc_eq]
  calc fnumVib m vp o * 2 ^ (fBLOCK m (ctl m o)).toNat / 2 * multOf (fMULT m o) / 2
      ≤ 1030 * 2 ^ 7 / 2 * 30 / 2 := by
        gcongr
        · exact fnumVib_le m vp o
        · exact multOf_le _
    _ = 988800 := by decide

/-- Settles O35: the vibrato offset position by position, and the step as the shifts of R182 read as products. -/
theorem phaseStepFollowsTheFields : Obligations.PhaseStepFollowsTheFields := by
  intro m vp o f r offset mt
  refine ⟨fun hvib => fnumVib_of_not_vib hvib vp, fun hvib => fnumVib_of_vib hvib vp, phaseInc_eq m vp o, fnumVib_le m vp o,
    phaseInc_le m vp o, fun hstill => ?_⟩
  have hfnum : fnumVib m vp o = f := by
    cases hvib : fVIB m o
    case false => exact fnumVib_of_not_vib hvib vp
    case true =>
      have hvalue := fnumVib_of_vib hvib vp
      rcases hstill with hoff | rfl | rfl
      · simp [hvib] at hoff
      · simpa using hvalue
      · simpa using hvalue
  rw [← hfnum]
  exact phaseInc_eq m vp o

end Sys2Proof.Machine
end

section
/-! The operations that answer without touching the Chip State: every operation but `RESET` before the first one (R125), and
`GETBUF` after it (R65, R124). -/

namespace Sys2Proof.Machine

/-- Settles O8: `GEN`, `GETBUF` and every `WRITE` stand behind the guard on `init`. -/
theorem refusedBeforeTheFirstReset : Obligations.RefusedBeforeTheFirstReset := by
  intro i s hinit hreset
  rcases exec_cases i with ⟨rate, rfl⟩ | rfl | rfl | ⟨addr, v, hwrite⟩
  case inl => exact absurd rfl (hreset rate)
  case inr.inl => exact whenInit_of_not_init hinit _
  case inr.inr.inl => exact whenInit_of_not_init hinit _
  case inr.inr.inr => exact (hwrite s).trans (whenInit_of_not_init hinit _)

/-- R65: the base is even whatever the constant it doubles. -/
theorem outbufBase_even : Config.outbufBase % 2 = 0 := Nat.mul_mod_right 2 Config.outbufHalf

/-- Settles O12: the operation completes with the Chip State it finds, and the base is even. -/
theorem getbufReturnsTheBase : Obligations.GetbufReturnsTheBase :=
  ⟨fun _ hinit => exec_getbuf_of_init hinit, outbufBase_even⟩

end Sys2Proof.Machine
end

section
/-! `WRITE` as R122 and R140 give it: nothing above 511, and at a valid address the store with the key action of every
operator whose key signal moves (R145, R146). -/

namespace Sys2Proof.Machine

/-- R122: above 511 nothing is written. -/
theorem chipWrite_of_outOfRange (c : Chip) {addr : BitVec 16} (hoor : 511 < addr.toNat) (v : Byte) :
    chipWrite c addr v = c := if_pos hoor

theorem hostWrite_wideAddr {s : State} (hi : s.chip.init = true) (a : BitVec 9) (v : Byte) :
    hostWrite (wideAddr a) v s = .next (s.completed (regWrite s.chip a v) .void) := by
  rw [hostWrite_of_init hi, chipWrite_wideAddr]

/-- The `WRITE` given operator by operator: `f o` is what the key edge leaves of operator `o`. -/
theorem hostWrite_of_keyEdge {s : State} (hi : s.chip.init = true) {a : BitVec 9} {v : Byte} {f : OpNum → Operator}
    (hf : ∀ o : OpNum, keyEdge s.chip.regs (s.chip.regs.write a.toNat v) o s.chip.ops[o] = f o) :
    hostWrite (wideAddr a) v s = .next { s with
      chip := { s.chip with regs := s.chip.regs.write a.toNat v, ops := Vector.ofFn f }
      reply := .void } := by
  rw [hostWrite_wideAddr hi]
  simp only [State.completed, regWrite, mapOps, hf]

/-- R303: every address up to 511 is a register address. -/
theorem exists_wideAddr_eq {addr : BitVec 16} (hvalid : addr.toNat ≤ 511) : ∃ a : BitVec 9, wideAddr a = addr :=
  ⟨_, wideAddr_extractLsb' hvalid⟩

/-- Settles O14: the decoder tests the range first, and `RegWrite` is not reached. -/
theorem outOfRangeWriteIsIgnored : Obligations.OutOfRangeWriteIsIgnored := by
  intro addr v s hi hoor
  refine ⟨decodeWrite_of_outOfRange hoor v, ?_⟩
  calc exec (.writeOor addr v) s
      = .next (s.completed (chipWrite s.chip addr v) .void) := hostWrite_of_init hi addr v
    _ = .next { s with reply := .void } := by rw [chipWrite_of_outOfRange _ hoor]; rfl

/-- Settles O15: whatever operation the address decodes to, it is `RegWrite` there. -/
theorem validWriteStoresAndActsOnKeyEdges : Obligations.ValidWriteStoresAndActsOnKeyEdges := by
  intro addr v s hi hvalid m0 m1
  obtain ⟨a, rfl⟩ := exists_wideAddr_eq hvalid
  have hm1 : m1 = m0.write a.toNat v := congrArg (m0.write · v) (wideAddr_toNat a)
  rw [exec_decodeWrite, hm1]
  exact hostWrite_of_keyEdge hi fun o => keyEdge_eq _ _ o _

/-- Settles O16: the key signals are views of the key registers only. -/
theorem onlyFiveKindsOfRegisterMoveKeys : Obligations.OnlyFiveKindsOfRegisterMoveKeys :=
  fun m _ v hBD hCONN4 hNEW hCHB0 => congrFun (key_congr (Memory.sameKeyRegisters_write m v hBD hCONN4 hNEW hCHB0))

end Sys2Proof.Machine
end

section
/-! The candidate pairs of R141 and the control channel of R143: which channels a pair in effect joins, and which operators a
channel controls. -/

namespace Sys2Proof.Machine

/-! ## The candidate pairs (R141) -/

/-- The first channels `P1(n)` of R141. -/
theorem pairOfFirst_eq_some_iff : ∀ (c : ChanNum) (n : Fin 6),
    pairOfFirst c = some n ↔ c.val = [0, 1, 2, 9, 10, 11].getD n.val 0 := by decide

/-- The second channels `P2(n)` of R141, each three above the first. -/
theorem pairOfSecond_eq_some_iff : ∀ (c : ChanNum) (n : Fin 6),
    pairOfSecond c = some n ↔ c.val = [0, 1, 2, 9, 10, 11].getD n.val 0 + 3 := by decide

theorem pairOfSecond_chanAbove : ∀ c : ChanNum, pairOfSecond (chanAbove c) = pairOfFirst c := by decide

theorem chanBelow_chanAbove : ∀ c : ChanNum, pairOfFirst c ≠ none → chanBelow (chanAbove c) = c := by decide

theorem chanAbove_chanBelow : ∀ c : ChanNum, pairOfSecond c ≠ none → chanAbove (chanBelow c) = c := by decide

/-! ## The pairs in effect -/

section
variable {m : Memory} {c : ChanNum}

theorem pairFirst_iff : pairFirst m c = true ↔ ∃ n, pairOfFirst c = some n ∧ pairInEffect m n = true := by
  unfold pairFirst
  cases pairOfFirst c <;> simp

theorem pairSecond_iff : pairSecond m c = true ↔ ∃ n, pairOfSecond c = some n ∧ pairInEffect m n = true := by
  unfold pairSecond
  cases pairOfSecond c <;> simp

/-- R141: the channel above the first of a pair is the second of the same pair. -/
theorem pairSecond_chanAbove (m : Memory) (c : ChanNum) : pairSecond m (chanAbove c) = pairFirst m c := by
  rw [Bool.eq_iff_iff, pairSecond_iff, pairFirst_iff, pairOfSecond_chanAbove]

theorem chanBelow_chanAbove_of_pairFirst (h : pairFirst m c = true) : chanBelow (chanAbove c) = c := by
  obtain ⟨n, hn, -⟩ := pairFirst_iff.mp h
  exact chanBelow_chanAbove c (by simp [hn])

theorem chanAbove_chanBelow_of_pairSecond (h : pairSecond m c = true) : chanAbove (chanBelow c) = c := by
  obtain ⟨n, hn, -⟩ := pairSecond_iff.mp h
  exact chanAbove_chanBelow c (by simp [hn])

end

/-- Settles O57: the pair a channel is in is read off the two lists of R141. -/
theorem pairsOfChannels : Obligations.PairsOfChannels := by
  intro m c first
  refine ⟨fun n => rfl, ?_, ?_⟩
  · simp only [pairFirst_iff, pairOfFirst_eq_some_iff, and_comm, first]
  · simp only [pairSecond_iff, pairOfSecond_eq_some_iff, and_comm, first]

/-! ## The control channel (R143) -/

section
variable {m : Memory} {o : OpNum}

theorem ctl_of_pairSecond (h : pairSecond m (chOf o) = true) : ctl m o = chanBelow (chOf o) := if_pos h

theorem ctl_of_not_pairSecond (h : pairSecond m (chOf o) = false) : ctl m o = chOf o := if_neg (by simp [h])

end

/-- Settles O29: the operator's channel is the second of a pair in effect or not. -/
theorem operatorsThatAChannelControls : Obligations.OperatorsThatAChannelControls := by
  intro m c o
  cases hsecond : pairSecond m (chOf o) with
  | true =>
    rw [ctl_of_pairSecond hsecond]
    constructor
    · rintro rfl
      have habove := chanAbove_chanBelow_of_pairSecond hsecond
      exact .inr ⟨by rw [← pairSecond_chanAbove, habove, hsecond], habove.symm⟩
    · rintro (⟨hnot, rfl⟩ | ⟨hfirst, hch⟩)
      · exact absurd (hsecond.symm.trans hnot) (by decide)
      · rw [hch, chanBelow_chanAbove_of_pairFirst hfirst]
  | false =>
    rw [ctl_of_not_pairSecond hsecond]
    constructor
    · rintro rfl
      exact .inl ⟨hsecond, rfl⟩
    · rintro (⟨-, hch⟩ | ⟨hfirst, hch⟩)
      · exact hch
      · rw [hch, pairSecond_chanAbove, hfirst] at hsecond
        cases hsecond

end Sys2Proof.Machine
end

section
/-! `WRITE` at the registers that move no key signal: `REG01` to `REG04` (R148 to R151), note select (R152) and the operator
registers (R155 to R159). -/

namespace Sys2Proof.Machine

/-! ## A store at a named address leaves the operator and channel registers (R86) -/

theorem opAddr_ne_of_named {a : BitVec 9} (ha : isNamedAddr a = true) {base : Nat}
    (hbase : base ∈ [0x20, 0x40, 0x60, 0x80, 0xE0]) (o : OpNum) : opAddr base o ≠ a := by
  rintro rfl
  obtain ⟨hnot, -, -⟩ := opAddr_fields base hbase o
  exact absurd (ha.symm.trans hnot) (by decide)

theorem chanAddr_ne_of_named {a : BitVec 9} (ha : isNamedAddr a = true) {base : Nat} (hbase : base ∈ [0xA0, 0xB0, 0xC0])
    (c : ChanNum) : chanAddr base c ≠ a := by
  rintro rfl
  obtain ⟨hnot, -, -, -⟩ := chanAddr_fields base hbase c
  exact absurd (ha.symm.trans hnot) (by decide)

section
variable (m : Memory) {a : BitVec 9} (ha : isNamedAddr a = true) (v : Byte) {base : Nat}
include ha

theorem Memory.opReg_write_named (hbase : base ∈ [0x20, 0x40, 0x60, 0x80, 0xE0]) (o : OpNum) :
    Memory.opReg (m.write a.toNat v) base o = m.opReg base o :=
  Memory.reg_write_other m v (opAddr_ne_of_named ha hbase o)

theorem Memory.chanReg_write_named (hbase : base ∈ [0xA0, 0xB0, 0xC0]) (c : ChanNum) :
    Memory.chanReg (m.write a.toNat v) base c = m.chanReg base c :=
  Memory.reg_write_other m v (chanAddr_ne_of_named ha hbase c)

/-- R25: the frequency and the key of a channel do not move with a named register. -/
theorem channelPitch_write_named (c : ChanNum) : fFNUM (m.write a.toNat v) c = fFNUM m c ∧
    fBLOCK (m.write a.toNat v) c = fBLOCK m c ∧ fKON (m.write a.toNat v) c = fKON m c := by
  simp only [fFNUM, fBLOCK, fKON, Memory.chanReg_write_named m ha v (base := 0xA0) (by decide),
    Memory.chanReg_write_named m ha v (base := 0xB0) (by decide), and_self]

end

/-! ## Registers without a function (R148 to R151) -/

/-- A byte stored where no rule reads moves no key signal and no decoded field. -/
theorem hostWrite_of_not_hasFunction {s : State} (hi : s.chip.init = true) (hwf : s.chip.regs.wf = true) {a : BitVec 9}
    (ha : hasFunction a = false) (v : Byte) :
    hostWrite (wideAddr a) v s = .next (s.stored a v) ∧ (s.stored a v).chip.regs.HoldsAt a v s.chip.regs ∧
      (s.stored a v).chip.regs.SameFields s.chip.regs := by
  have hsame : Memory.SameFunction (s.chip.regs.write a.toNat v) s.chip.regs := Memory.sameFunction_write_self _ ha v
  exact ⟨hostWrite_eq_stored hi hsame.sameKeyRegisters, Memory.holdsAt_write hwf a v, hsame.sameFields⟩

/-- Settles O18: no rule reads 0x001 to 0x004. -/
theorem functionlessRegistersOnlyStore : Obligations.FunctionlessRegistersOnlyStore := by
  intro v s hi hwf p hp
  have hrow : hasFunction p.2 = false ∧ exec p.1 s = hostWrite (wideAddr p.2) v s := by
    fin_cases hp <;> exact ⟨rfl, rfl⟩
  obtain ⟨hunread, hexec⟩ := hrow
  rw [hexec]
  exact hostWrite_of_not_hasFunction hi hwf hunread v

/-! ## Note select (R152) -/

/-- R184: `BLOCK` shifted by one place, with a bit of `FNUM` in the free place. -/
theorem ksv_eq (m : Memory) (c : ChanNum) : ksv m c = 2 * (fBLOCK m c).toNat +
    (if fNTS m then (fFNUM m c).getLsbD 8 else (fFNUM m c).getLsbD 9).toNat := by
  rw [ksv, ← Nat.shiftLeft_add_eq_or_of_lt (Bool.toNat_lt _), Nat.shiftLeft_eq, Nat.mul_comm]

/-- Settles O20: `BLOCK` and `FNUM` stand in the channel registers, and only their selection moves. -/
theorem noteSelectWrite : Obligations.NoteSelectWrite := by
  intro v s hi hwf m1
  have hkeys : Memory.SameKeyRegisters m1 s.chip.regs :=
    Memory.sameKeyRegisters_write _ v (by decide) (by decide) (by decide) (by decide)
  have hNTS : fNTS m1 = v.getLsbD 6 := congrArg (·.getLsbD 6) (Memory.reg_write_self hwf 0x008#9 v)
  refine ⟨hostWrite_eq_stored hi hkeys, Memory.holdsAt_write hwf 0x008#9 v, hNTS, fun c => ?_, rfl⟩
  obtain ⟨hFNUM, hBLOCK, -⟩ : fFNUM m1 c = _ ∧ fBLOCK m1 c = _ ∧ _ :=
    channelPitch_write_named s.chip.regs (a := 0x008#9) rfl v c
  rw [ksv_eq, hNTS, hFNUM, hBLOCK]

/-! ## Operator registers (R155 to R159) -/

theorem isOperatorAddr_opAddr : ∀ base ∈ [0x20, 0x40, 0x60, 0x80, 0xE0], ∀ o : OpNum,
    isOperatorAddr (opAddr base o) = true := by decide

theorem opAddr_ne_chanAddr {base base' : Nat} (hbase : base ∈ [0x20, 0x40, 0x60, 0x80, 0xE0])
    (hbase' : base' ∈ [0xA0, 0xB0, 0xC0]) (o : OpNum) (c : ChanNum) : opAddr base o ≠ chanAddr base' c := by
  intro heq
  obtain ⟨-, hnot, -, -⟩ := chanAddr_fields base' hbase' c
  exact absurd ((isOperatorAddr_opAddr base hbase o).symm.trans (heq ▸ hnot)) (by decide)

section
variable {base : Nat} (hbase : base ∈ [0x20, 0x40, 0x60, 0x80, 0xE0]) (o : OpNum) (v : Byte)
include hbase

theorem Memory.sameKeyRegisters_write_opAddr (m : Memory) :
    Memory.SameKeyRegisters (m.write (opAddr base o).toNat v) m :=
  Memory.sameKeyRegisters_write m v (opAddr_ne_of_named rfl hbase o) (opAddr_ne_of_named rfl hbase o)
    (opAddr_ne_of_named rfl hbase o) (opAddr_ne_chanAddr hbase (by decide) o)

/-- A byte stored at an operator register moves no key signal, and the register reads as the byte. -/
theorem hostWrite_opAddr {s : State} (hi : s.chip.init = true) (hwf : s.chip.regs.wf = true) :
    hostWrite (wideAddr (opAddr base o)) v s = .next (s.stored (opAddr base o) v) ∧
      (s.stored (opAddr base o) v).chip.regs.HoldsAt (opAddr base o) v s.chip.regs ∧
      (s.stored (opAddr base o) v).chip.regs.opReg base o = v :=
  ⟨hostWrite_eq_stored hi (Memory.sameKeyRegisters_write_opAddr hbase o v _), Memory.holdsAt_write hwf _ v,
    Memory.reg_write_self hwf _ v⟩

end

/-- Settles O21: every field is a bit field of the byte just stored. -/
theorem operatorModeWrite : Obligations.OperatorModeWrite := by
  intro o v s hi hwf a m1
  obtain ⟨hexec, hholds, hreg⟩ := hostWrite_opAddr (base := 0x20) (by decide) o v hi hwf
  refine ⟨hexec, hholds, ?_⟩
  unfold fAM fVIB fEGT fKSR fMULT
  rw [hreg]
  exact ⟨rfl, rfl, rfl, rfl, rfl⟩

/-- Settles O22: both fields are bit fields of the byte just stored. -/
theorem operatorLevelWrite : Obligations.OperatorLevelWrite := by
  intro o v s hi hwf a m1
  obtain ⟨hexec, hholds, hreg⟩ := hostWrite_opAddr (base := 0x40) (by decide) o v hi hwf
  refine ⟨hexec, hholds, ?_⟩
  unfold fKSL fTL
  rw [hreg]
  exact ⟨rfl, rfl⟩

/-- Settles O23: both fields are bit fields of the byte just stored. -/
theorem operatorAttackDecayWrite : Obligations.OperatorAttackDecayWrite := by
  intro o v s hi hwf a m1
  obtain ⟨hexec, hholds, hreg⟩ := hostWrite_opAddr (base := 0x60) (by decide) o v hi hwf
  refine ⟨hexec, hholds, ?_⟩
  unfold fAR fDR
  rw [hreg]
  exact ⟨rfl, rfl⟩

/-- R104: the sustain target from the value of `SL`. -/
theorem sustainTarget_eq (m : Memory) (o : OpNum) :
    sustainTarget m o = 511 - 16 * (if (fSL m o).toNat = 15 then 31 else (fSL m o).toNat) := by
  simp only [sustainTarget, slx, ← BitVec.toNat_inj, BitVec.toNat_ofNat, Nat.reducePow, Nat.reduceMod]

theorem extractLsb'_high_nibble_toNat (v : Byte) : (v.extractLsb' 4 4).toNat = v.toNat / 16 := by
  have hv := v.isLt
  rw [BitVec.extractLsb'_toNat, Nat.shiftRight_eq_div_pow]
  omega

/-- Settles O24: both fields are bit fields of the byte just stored, and the target follows `SL`. -/
theorem operatorSustainReleaseWrite : Obligations.OperatorSustainReleaseWrite := by
  intro o v s hi hwf a m1
  obtain ⟨hexec, hholds, hreg⟩ := hostWrite_opAddr (base := 0x80) (by decide) o v hi hwf
  have hSL : fSL m1 o = v.extractLsb' 4 4 := congrArg (·.extractLsb' 4 4) hreg
  have hRR : fRR m1 o = v.extractLsb' 0 4 := congrArg (·.extractLsb' 0 4) hreg
  refine ⟨hexec, hholds, hSL, hRR, ?_⟩
  rw [sustainTarget_eq, hSL, extractLsb'_high_nibble_toNat]

/-- R200: with `NEW` = 0 the waveform in use is `WS[1:0]`. -/
theorem wsEff_toNat (m : Memory) (o : OpNum) :
    (wsEff m o).toNat = if fNEW m then (fWS m o).toNat else (fWS m o).toNat % 4 := by
  rw [wsEff, apply_ite BitVec.toNat, BitVec.toNat_and]
  exact congrArg (ite _ _) (Nat.and_two_pow_sub_one_eq_mod _ 2)

/-- Settles O25: `WS` is a bit field of the byte just stored, and `NEW` stands in a key register. -/
theorem operatorWaveformWrite : Obligations.OperatorWaveformWrite := by
  intro o v s hi hwf a m1
  obtain ⟨hexec, hholds, hreg⟩ := hostWrite_opAddr (base := 0xE0) (by decide) o v hi hwf
  obtain ⟨-, -, h105, -⟩ : Memory.SameKeyRegisters m1 s.chip.regs :=
    Memory.sameKeyRegisters_write_opAddr (by decide) o v _
  have hWS : fWS m1 o = v.extractLsb' 0 3 := congrArg (·.extractLsb' 0 3) hreg
  have hNEW : fNEW m1 = fNEW s.chip.regs := congrArg (·.getLsbD 0) h105
  have hlow : (v.extractLsb' 0 3).toNat = v.toNat % 8 := by simp
  refine ⟨hexec, hholds, hWS, ?_⟩
  rw [wsEff_toNat, hWS, hNEW, hlow, Nat.mod_mod_of_dvd _ (by decide)]

end Sys2Proof.Machine
end

section
/-! `WRITE` at the key registers: `CHB0` (R161), 0x0BD (R163), 0x104 (R153) and 0x105 (R154). Each moves one part of the key
signal `KON(ctl(o)) or key_drum(o)` (R144) and leaves the others. -/

namespace Sys2Proof.Machine

/-! ## The parts of the key signal (R141 to R144) -/

section
variable {m m' : Memory}

theorem pairInEffect_eq_of_reg (h104 : m.reg 0x104#9 = m'.reg 0x104#9) (h105 : m.reg 0x105#9 = m'.reg 0x105#9) :
    pairInEffect m = pairInEffect m' := by
  funext n
  simp only [pairInEffect, fNEW, fCONN4, h104, h105]

theorem ctl_eq_of_pairSecond {o : OpNum} (h : pairSecond m (chOf o) = pairSecond m' (chOf o)) : ctl m o = ctl m' o := by
  simp only [ctl, h]

/-- R143: the control channel depends on the pairs in effect only. -/
theorem ctl_eq_of_pairInEffect (h : pairInEffect m = pairInEffect m') : ctl m = ctl m' := by
  funext o
  apply ctl_eq_of_pairSecond
  rw [pairSecond, h, pairSecond]

/-- R144: the percussion keys are a view of the byte at 0x0BD. -/
theorem keyDrum_eq_drumKeyOf (m : Memory) (o : OpNum) : keyDrum m o = drumKeyOf (m.reg 0x0BD#9) o := rfl

theorem keyDrum_eq_of_reg (h : m.reg 0x0BD#9 = m'.reg 0x0BD#9) : keyDrum m = keyDrum m' := by
  funext o
  rw [keyDrum_eq_drumKeyOf, keyDrum_eq_drumKeyOf, h]

end

/-! ## `WRITE` at a `CHB0` register (R161) -/

theorem chanAddr_B0_inj : ∀ c d : ChanNum, chanAddr 0xB0 c = chanAddr 0xB0 d ↔ c = d := by decide

theorem fKON_write_chanAddr_B0 {m : Memory} (hwf : m.wf = true) (c : ChanNum) (v : Byte) (d : ChanNum) :
    fKON (m.write (chanAddr 0xB0 c).toNat v) d = if d = c then v.getLsbD 5 else fKON m d := by
  split
  · next hd => rw [hd, fKON, Memory.chanReg_write_self hwf]
  · next hd =>
    have hne : chanAddr 0xB0 d ≠ chanAddr 0xB0 c := (chanAddr_B0_inj d c).not.mpr hd
    exact congrArg (·.getLsbD 5) (Memory.reg_write_other m v hne)

/-- The key signals after a store at a `CHB0` register: that channel's `KON` is replaced, and nothing else moves. -/
theorem key_write_chanAddr_B0 {m : Memory} (hwf : m.wf = true) (c : ChanNum) (v : Byte) (o : OpNum) :
    key (m.write (chanAddr 0xB0 c).toNat v) o =
      ((if ctl m o = c then v.getLsbD 5 else fKON m (ctl m o)) || keyDrum m o) := by
  have hother (a : BitVec 9) (ha : isNamedAddr a = true) :
      Memory.reg (m.write (chanAddr 0xB0 c).toNat v) a = m.reg a :=
    Memory.reg_write_other m v (chanAddr_ne_of_named ha (by decide) c).symm
  have hctl := ctl_eq_of_pairInEffect (pairInEffect_eq_of_reg (hother 0x104#9 rfl) (hother 0x105#9 rfl))
  have hdrum := keyDrum_eq_of_reg (hother 0x0BD#9 rfl)
  rw [key, hctl, hdrum, fKON_write_chanAddr_B0 hwf]

/-- R144, R161: an operator follows the `KON` of its control channel unless its percussion key holds it. -/
theorem keyEdge_write_chanAddr_B0 {m : Memory} (hwf : m.wf = true) (c : ChanNum) (v : Byte) (o : OpNum) (op : Operator) :
    keyEdge m (m.write (chanAddr 0xB0 c).toNat v) o op =
      if ctl m o = c ∧ keyDrum m o = false then
        afterEdge (fKON m c) (v.getLsbD 5)
          (rateOf (m.write (chanAddr 0xB0 c).toNat v) o (fAR (m.write (chanAddr 0xB0 c).toNat v) o)) op
      else op := by
  have hkey := key_write_chanAddr_B0 hwf c v o
  split
  · next h =>
    obtain ⟨hctl, hdrum⟩ := h
    rw [keyEdge_eq, hkey, key, hctl, hdrum, if_pos rfl, Bool.or_false, Bool.or_false]
  · next h =>
    refine keyEdge_same ?_ op
    rw [hkey, key]
    by_cases hctl : ctl m o = c
    · rw [Bool.eq_true_of_not_eq_false fun hdrum => h ⟨hctl, hdrum⟩, Bool.or_true, Bool.or_true]
    · rw [if_neg hctl]

/-- R103: the low byte of `FNUM` is the `CHA0` register. -/
theorem fFNUM_low (m : Memory) (c : ChanNum) : (fFNUM m c).extractLsb' 0 8 = m.chanReg 0xA0 c :=
  BitVec.extractLsb'_append_eq_right

/-- Settles O28: the `CHA0` register of the channel keeps the low byte of `FNUM`. -/
theorem channelKeyWrite : Obligations.ChannelKeyWrite := by
  intro c v s hi hwf m0 a m1
  have hB0 : m1.chanReg 0xB0 c = v := Memory.chanReg_write_self hwf 0xB0 c v
  obtain ⟨-, -, -, hne⟩ := chanAddr_ne_keyRegister 0xA0 (by decide) c
  have hA0 : m1.chanReg 0xA0 c = m0.chanReg 0xA0 c := Memory.reg_write_other m0 v (hne c)
  refine ⟨hostWrite_of_keyEdge hi fun o => keyEdge_write_chanAddr_B0 hwf c v o _, Memory.holdsAt_write hwf a v,
    congrArg (·.getLsbD 5) hB0, congrArg (·.extractLsb' 2 3) hB0, ?_⟩
  rw [fFNUM_low, fFNUM, hB0, hA0]

/-! ## `WRITE 0x0BD` (R163) -/

section
variable (m : Memory) (v : Byte)

/-- R141: neither `NEW` nor `CONN4` stands in 0x0BD. -/
theorem ctl_write_BD : ctl (m.write (0x0BD#9).toNat v) = ctl m :=
  ctl_eq_of_pairInEffect
    (pairInEffect_eq_of_reg (Memory.reg_write_other m v (by decide)) (Memory.reg_write_other m v (by decide)))

/-- R184, R185: no field of the attack rate stands in 0x0BD. -/
theorem attackRate_write_BD (o : OpNum) :
    rateOf (m.write (0x0BD#9).toNat v) o (fAR (m.write (0x0BD#9).toNat v) o) = rateOf m o (fAR m o) := by
  have hop (base : Nat) (hbase : base ∈ [0x20, 0x40, 0x60, 0x80, 0xE0]) :
      Memory.opReg (m.write (0x0BD#9).toNat v) base o = m.opReg base o := Memory.opReg_write_named m rfl v hbase o
  have hKSR : fKSR (m.write (0x0BD#9).toNat v) o = fKSR m o := congrArg (·.getLsbD 4) (hop 0x20 (by decide))
  have hAR : fAR (m.write (0x0BD#9).toNat v) o = fAR m o := congrArg (·.extractLsb' 4 4) (hop 0x60 (by decide))
  have hNTS : fNTS (m.write (0x0BD#9).toNat v) = fNTS m := congrArg (·.getLsbD 6) (Memory.reg_write_other m v (by decide))
  have hksv : ksv (m.write (0x0BD#9).toNat v) (ctl m o) = ksv m (ctl m o) := by
    obtain ⟨hFNUM, hBLOCK, -⟩ := channelPitch_write_named m (a := 0x0BD#9) rfl v (ctl m o)
    rw [ksv_eq, hNTS, hFNUM, hBLOCK, ksv_eq]
  rw [hAR, rateOf, rateOf, ctl_write_BD, hKSR, hksv]

end

/-- The key signals after a store at 0x0BD: the percussion keys are replaced. -/
theorem key_write_BD {m : Memory} (hwf : m.wf = true) (v : Byte) (o : OpNum) :
    key (m.write (0x0BD#9).toNat v) o = (fKON m (ctl m o) || drumKeyOf v o) := by
  obtain ⟨-, -, hKON⟩ := channelPitch_write_named m (a := 0x0BD#9) rfl v (ctl m o)
  rw [key, ctl_write_BD, hKON, keyDrum_eq_drumKeyOf, Memory.reg_write_self hwf]

/-- R144, R163: an operator follows the or of its channel key and its percussion key. -/
theorem keyEdge_write_BD {m : Memory} (hwf : m.wf = true) (v : Byte) (o : OpNum) (op : Operator) :
    keyEdge m (m.write (0x0BD#9).toNat v) o op =
      afterEdge (fKON m (ctl m o) || drumKeyOf (m.reg 0x0BD#9) o) (fKON m (ctl m o) || drumKeyOf v o)
        (rateOf m o (fAR m o)) op := by
  rw [keyEdge_eq, key_write_BD hwf, attackRate_write_BD, key, keyDrum_eq_drumKeyOf]

/-- Settles O30: the fields are the bits of the byte, and each operator follows its channel key or its percussion key. -/
theorem rhythmRegisterWrite : Obligations.RhythmRegisterWrite := by
  intro v s hi hwf m0 m1
  have hreg : m1.reg 0x0BD#9 = v := Memory.reg_write_self hwf 0x0BD#9 v
  refine ⟨hostWrite_of_keyEdge hi fun o => keyEdge_write_BD hwf v o _, Memory.holdsAt_write hwf 0x0BD#9 v, ?_⟩
  unfold fDAM fDVB fRYT fBD fSD fTOM fTC fHH
  rw [hreg]
  exact ⟨rfl, rfl, rfl, rfl, rfl, rfl, rfl, rfl⟩

/-! ## `WRITE 0x104` and `WRITE 0x105` (R153, R154) -/

/-- The key signals after a store that leaves `KON` and the percussion keys: the control channels alone may change. -/
theorem key_write_named (m : Memory) {a : BitVec 9} (ha : isNamedAddr a = true) (hBD : a ≠ 0x0BD#9) (v : Byte)
    (o : OpNum) :
    key (m.write a.toNat v) o = (fKON m (ctl (m.write a.toNat v) o) || keyDrum m o) := by
  obtain ⟨-, -, hKON⟩ := channelPitch_write_named m ha v (ctl (m.write a.toNat v) o)
  rw [key, hKON, keyDrum_eq_of_reg (Memory.reg_write_other m v hBD.symm)]

/-- R143, R153, R154: an operator follows the `KON` of its new control channel, and has no edge when its channel neither
becomes nor ceases to be the second of a pair. -/
theorem regWrite_op_named (c : Chip) {a : BitVec 9} (ha : isNamedAddr a = true) (hBD : a ≠ 0x0BD#9) (v : Byte)
    (o : OpNum) :
    let m0 := c.regs
    let m1 := m0.write a.toNat v
    (regWrite c a v).ops[o] = afterEdge (fKON m0 (ctl m0 o) || keyDrum m0 o) (fKON m0 (ctl m1 o) || keyDrum m0 o)
        (rateOf m1 o (fAR m1 o)) c.ops[o] ∧
      (pairSecond m1 (chOf o) = pairSecond m0 (chOf o) → (regWrite c a v).ops[o] = c.ops[o]) := by
  intro m0 m1
  have hkey : key m1 o = (fKON m0 (ctl m1 o) || keyDrum m0 o) := key_write_named m0 ha hBD v o
  rw [regWrite_op]
  refine ⟨?_, fun hsecond => keyEdge_same ?_ _⟩
  · rw [keyEdge_eq, hkey, key]
  · rw [hkey, ctl_eq_of_pairSecond hsecond, key]

theorem getLsbD_extractLsb'_pair (v : Byte) (n : Fin 6) : (v.extractLsb' 0 6).getLsbD n.val = v.getLsbD n.val := by
  simp

/-- Settles O31: `CONN4` is replaced, and `NEW` stands in another register. -/
theorem fourOpEnableWrite : Obligations.FourOpEnableWrite := by
  intro v s hi hwf m0 m1
  have hCONN4 : fCONN4 m1 = v.extractLsb' 0 6 := congrArg (·.extractLsb' 0 6) (Memory.reg_write_self hwf 0x104#9 v)
  have hNEW : fNEW m1 = fNEW m0 := congrArg (·.getLsbD 0) (Memory.reg_write_other m0 (a := 0x104#9) v (by decide))
  refine ⟨_, hostWrite_wideAddr hi 0x104#9 v, rfl, Memory.holdsAt_write hwf 0x104#9 v, hCONN4, fun n => ?_,
    regWrite_op_named s.chip rfl (by decide) v⟩
  rw [pairInEffect, hNEW, hCONN4, getLsbD_extractLsb'_pair]

/-- Settles O32: `NEW` is replaced, and `CONN4` stands in another register. -/
theorem newModeWrite : Obligations.NewModeWrite := by
  intro v s hi hwf m0 m1
  have hNEW : fNEW m1 = v.getLsbD 0 := congrArg (·.getLsbD 0) (Memory.reg_write_self hwf 0x105#9 v)
  have hCONN4 : fCONN4 m1 = fCONN4 m0 :=
    congrArg (·.extractLsb' 0 6) (Memory.reg_write_other m0 (a := 0x105#9) v (by decide))
  refine ⟨_, hostWrite_wideAddr hi 0x105#9 v, rfl, Memory.holdsAt_write hwf 0x105#9 v, hNEW, fun n => ?_,
    regWrite_op_named s.chip rfl (by decide) v⟩
  rw [pairInEffect, hNEW, hCONN4]

end Sys2Proof.Machine
end

section
/-! What a native tick does to the global counters (R212 to R215), and to the phase (R183), the stage and the level (R188 to
R193) of every operator. -/

namespace Sys2Proof.Machine

/-! ## The global counters -/

theorem timerNext_toNat (t : BitVec 14) : (timerNext t).toNat = (t.toNat + 1) % 16384 := BitVec.toNat_add t 1#14

theorem tremNext_toNat (t : BitVec 14) (tp : BitVec 8) :
    (tremNext t tp).toNat = if t.toNat % 64 = 63 then (tp.toNat + 1) % 210 else tp.toNat := by
  have hfits : (tp.toNat + 1) % 210 < 256 := (Nat.mod_lt _ (by decide)).trans (by decide)
  rw [tremNext, apply_ite BitVec.toNat, BitVec.toNat_ofNat]
  exact congrArg (ite _ · _) (Nat.mod_eq_of_lt hfits)

theorem vibNext_toNat (t : BitVec 14) (vp : BitVec 3) :
    (vibNext t vp).toNat = if t.toNat % 1024 = 1023 then (vp.toNat + 1) % 8 else vp.toNat := by
  rw [vibNext, apply_ite BitVec.toNat, BitVec.toNat_add]
  rfl

/-- R215: the shift leaves the top bit free, so the bit fed back there adds its weight. -/
theorem noiseNext_toNat (n : BitVec 23) :
    (noiseNext n).toNat = n.toNat / 2 + if n.getLsbD 14 ^^ n.getLsbD 0 then 4194304 else 0 := by
  have hshift : n.toNat / 2 < 2 ^ 22 := by have := n.isLt; omega
  rw [noiseNext, BitVec.toNat_or, BitVec.toNat_ushiftRight, Nat.shiftRight_eq_div_pow]
  split
  · rw [Nat.or_comm, Nat.add_comm]
    exact (Nat.two_pow_add_eq_or_of_lt hshift 1).symm
  · exact Nat.or_zero _

/-- Settles O33: each counter by its own rule, on the values before the tick. -/
theorem tickStepsTheGlobalCounters : Obligations.TickStepsTheGlobalCounters := by
  intro c d
  refine ⟨timerNext_toNat c.timer, fun _ => tremNext_toNat c.timer c.tremPos, vibNext_toNat c.timer c.vibPos,
    noiseNext_toNat c.noise, noiseNext_ne_zero, rfl⟩

/-! ## The phase and the envelope of an operator -/

/-- The envelope and pass 2 leave the phase alone, so a tick moves it as the phase generator does. -/
theorem nativeTick_phase (c : Chip) (o : OpNum) :
    (nativeTick c).1.ops[o].phase = (phaseAdvance c.regs c.vibPos o c.ops[o]).phase := by
  rw [nativeTick_ops, ← envAdvance_phase c.regs c.timer o (phaseAdvance ..), ← pass1_get]
  exact pass2_phase c (pass1 c) o.val o.isLt

/-- Settles O34: the sum of the phase generator, taken modulo `2 ^ 19`. -/
theorem tickAdvancesEveryPhase : Obligations.TickAdvancesEveryPhase := by
  intro c o
  rw [nativeTick_phase]
  exact BitVec.toNat_ofNat _ _

/-- Pass 2 and the phase leave the stage alone, so a tick moves it as the envelope does. -/
theorem nativeTick_stage (c : Chip) (o : OpNum) :
    (nativeTick c).1.ops[o].stage = (envAdvance c.regs c.timer o c.ops[o]).stage := by
  rw [nativeTick_ops, ← envAdvance_phaseAdvance_stage c.regs c.timer c.vibPos, ← pass1_get]
  exact pass2_stage c (pass1 c) o.val o.isLt

/-! ## The envelope steps on the level as a number (R190, R191, R193) -/

theorem attackStep_level_toNat {op : Operator} (h : op.level ≠ 511#9) (inc : Nat) :
    (attackStep inc op).level.toNat = min 511 (op.level.toNat + ((512 - op.level.toNat) * inc + 7) / 8) := by
  rw [attackStep_level, if_neg h, level_toNat_ofNat (Nat.min_le_left _ _), Nat.shiftRight_eq_div_pow]

theorem decayStep_level_toNat {target : Nat} {op : Operator} (h : ¬ op.level.toNat ≤ target) (inc : Nat) :
    (decayStep target inc op).level.toNat = max target (op.level.toNat - inc) := by
  have hlt := op.level.isLt
  rw [decayStep_level, if_neg h, level_toNat_ofNat (by omega)]

/-- At level 0 the level stays there, so this holds whether the stage changes or not. -/
theorem releaseStep_level_toNat (inc : Nat) (op : Operator) :
    (releaseStep inc op).level.toNat = op.level.toNat - inc := by
  have hlt := op.level.isLt
  rw [releaseStep_level]
  split
  · simp [*]
  · exact level_toNat_ofNat (by omega)

/-- Settles O37, one clause for each stage the tick can find. -/
theorem tickAdvancesEveryEnvelope : Obligations.TickAdvancesEveryEnvelope := by
  intro c o
  dsimp only
  rw [nativeTick_stage, nativeTick_level]
  refine ⟨fun hoff => ?_, fun hatt => ?_, fun hdec => ?_, fun hsus hegt => ?_, fun hfall => ?_⟩
  · rw [envAdvance_of_off hoff]
    exact ⟨hoff, rfl⟩
  · rw [envAdvance_of_attack hatt, attackStep_stage]
    split
    case isTrue htop => exact ⟨rfl, by rw [attackStep_level, if_pos htop]⟩
    case isFalse hbelow => exact ⟨hatt, attackStep_level_toNat hbelow _⟩
  · rw [envAdvance_of_decay hdec, decayStep_stage]
    split
    case isTrue hreached => exact ⟨rfl, by rw [decayStep_level, if_pos hreached]⟩
    case isFalse habove => exact ⟨hdec, decayStep_level_toNat habove _⟩
  · rw [envAdvance_of_heldSustain hsus hegt]
    exact ⟨hsus, rfl⟩
  · rw [envAdvance_of_falling hfall, releaseStep_stage]
    split
    case isTrue hsilent => exact ⟨rfl, by rw [releaseStep_level, if_pos hsilent]⟩
    case isFalse => exact ⟨rfl, releaseStep_level_toNat _ _⟩

end Sys2Proof.Machine
end

section
/-! The key-scale value, the effective rate and the envelope increment (R184 to R187). -/

namespace Sys2Proof.Machine

/-! ## The effective rate (R184, R185) -/

theorem ksv_le (m : Memory) (c : ChanNum) : ksv m c ≤ 15 := by
  have hblock := (fBLOCK m c).isLt
  have hbit := Bool.toNat_le (if fNTS m then (fFNUM m c).getLsbD 8 else (fFNUM m c).getLsbD 9)
  rw [ksv_eq]
  omega

theorem rateOf_zero (m : Memory) (o : OpNum) : rateOf m o 0#4 = 0 := rfl

theorem rateOf_of_ne_zero (m : Memory) (o : OpNum) {r : BitVec 4} (h : r ≠ 0#4) :
    rateOf m o r = min 60 (4 * r.toNat + if fKSR m o then ksv m (ctl m o) else ksv m (ctl m o) / 4) := by
  simp only [rateOf, if_neg h, Nat.shiftRight_eq_div_pow, Nat.reducePow]

theorem rateOf_le (m : Memory) (o : OpNum) (r : BitVec 4) : rateOf m o r ≤ 60 := by
  by_cases h : r = 0#4
  · rw [h, rateOf_zero]
    decide
  · rw [rateOf_of_ne_zero m o h]
    exact Nat.min_le_left _ _

theorem four_le_rateOf (m : Memory) (o : OpNum) {r : BitVec 4} (h : r ≠ 0#4) : 4 ≤ rateOf m o r := by
  have hr : 1 ≤ r.toNat := by bv_omega
  rw [rateOf_of_ne_zero m o h]
  omega

/-- R185: a rate field of 15 reaches the highest rate whatever the key-scale value. -/
theorem rateOf_fifteen (m : Memory) (o : OpNum) : rateOf m o 15#4 = 60 := by
  rw [rateOf_of_ne_zero m o (by decide)]
  exact Nat.min_eq_left (Nat.le_add_right _ _)

/-! ## The envelope increment (R186, R187) -/

theorem egIncSh_eq : ∀ rh < 16,
    egIncSh rh = if rh = 0 then (0 : Int) else if rh ≤ 12 then 12 - (rh : Int) else 13 - (rh : Int) := by decide

theorem egIncDesc_eq : ∀ rh < 16, egIncDesc rh = if rh = 0 then 0 else if rh ≤ 12 then 1 else 2 := by decide

/-- `EgInc` with the masks and shifts of R186 read as quotients and remainders. -/
theorem egInc_eq (t : BitVec 14) (rate : Nat) :
    egInc t rate =
      if 0 < egIncSh (rate / 4) then
        if t.toNat % 2 ^ (egIncSh (rate / 4)).toNat = 0 then
          egIncStep (egIncDesc (rate / 4)) (rate % 4) (t.toNat / 2 ^ (egIncSh (rate / 4)).toNat % 8)
        else 0
      else egIncStep (egIncDesc (rate / 4)) (rate % 4) (t.toNat % 8) * 2 ^ (-egIncSh (rate / 4)).toNat := by
  have hstep : ∀ x : Nat, x &&& 7 = x % 8 := fun x => Nat.and_two_pow_sub_one_eq_mod x 3
  have hrl : rate &&& 3 = rate % 4 := Nat.and_two_pow_sub_one_eq_mod rate 2
  have hrh : rate >>> 2 = rate / 4 := Nat.shiftRight_eq_div_pow rate 2
  rw [egInc, hrl, hrh]
  simp only [hstep, Nat.shiftRight_eq_div_pow, Nat.shiftLeft_eq, ite_not]

theorem egInc_of_lt_four {rate : Nat} (h : rate < 4) (t : BitVec 14) : egInc t rate = 0 := by
  have hrh : rate / 4 = 0 := by omega
  rw [egInc_eq, hrh]
  rfl

/-- R186: from 4 to 51 a step of the slow pattern once in `2 ^ (12 - rate / 4)` ticks. -/
theorem egInc_of_slow {rate : Nat} (hlo : 4 ≤ rate) (hhi : rate < 52) (t : BitVec 14) :
    egInc t rate = if t.toNat % 2 ^ (12 - rate / 4) = 0 then
      egIncStep 1 (rate % 4) (t.toNat / 2 ^ (12 - rate / 4) % 8) else 0 := by
  have hsh : egIncSh (rate / 4) = (12 - rate / 4 : Nat) := by
    rw [egIncSh_eq _ (by omega), if_neg (by omega), if_pos (by omega)]
    omega
  have hdesc : egIncDesc (rate / 4) = 1 := by
    rw [egIncDesc_eq _ (by omega), if_neg (by omega), if_pos (by omega)]
  rw [egInc_eq, hsh, hdesc, Int.toNat_natCast]
  split
  · rfl
  · have hzero : 12 - rate / 4 = 0 := by omega
    simp [hzero, Nat.mod_one]

/-- R186: from 52 a step of the fast pattern at every tick, doubled from 56 and again at 60. -/
theorem egInc_of_fast {rate : Nat} (hlo : 52 ≤ rate) (hhi : rate ≤ 60) (t : BitVec 14) :
    egInc t rate = egIncStep 2 (rate % 4) (t.toNat % 8) * 2 ^ (rate / 4 - 13) := by
  have hsh : egIncSh (rate / 4) = -(rate / 4 - 13 : Nat) := by
    rw [egIncSh_eq _ (by omega), if_neg (by omega), if_neg (by omega)]
    omega
  have hdesc : egIncDesc (rate / 4) = 2 := by
    rw [egIncDesc_eq _ (by omega), if_neg (by omega), if_neg (by omega)]
  rw [egInc_eq, hsh, hdesc, if_neg (by omega), Int.neg_neg, Int.toNat_natCast]

/-! ## The range of the increment -/

/-- R187: the slow pattern steps by 0 or 1, and by 1 at every odd step. -/
theorem egIncStep_slow : ∀ rl < 4, ∀ x < 8, egIncStep 1 rl x ≤ 1 ∧ (x % 2 = 1 → egIncStep 1 rl x = 1) := by decide

/-- R187: the fast pattern steps by 1 or 2, and its first row by 1 throughout. -/
theorem egIncStep_fast : ∀ rl < 4, ∀ x < 8,
    1 ≤ egIncStep 2 rl x ∧ egIncStep 2 rl x ≤ 2 ∧ (rl = 0 → egIncStep 2 rl x = 1) := by decide

theorem egInc_sixty (t : BitVec 14) : egInc t 60 = 4 := by
  obtain ⟨-, -, hone⟩ := egIncStep_fast 0 (by decide) (t.toNat % 8) (Nat.mod_lt _ (by decide))
  rw [egInc_of_fast (by decide) (by decide), hone rfl]
  rfl

theorem egInc_le (t : BitVec 14) {rate : Nat} (h : rate ≤ 60) : egInc t rate ≤ 4 := by
  rcases lt_or_ge rate 4 with hlo | hlo
  · simp [egInc_of_lt_four hlo]
  rcases lt_or_ge rate 52 with hslow | hfast
  · obtain ⟨hone, -⟩ := egIncStep_slow (rate % 4) (Nat.mod_lt _ (by decide))
      (t.toNat / 2 ^ (12 - rate / 4) % 8) (Nat.mod_lt _ (by decide))
    rw [egInc_of_slow hlo hslow]
    split <;> omega
  rcases Nat.lt_or_eq_of_le h with hlt | rfl
  · obtain ⟨-, htwo, -⟩ := egIncStep_fast (rate % 4) (Nat.mod_lt _ (by decide)) (t.toNat % 8) (Nat.mod_lt _ (by decide))
    have hdouble : 2 ^ (rate / 4 - 13) ≤ 2 ^ 1 := Nat.pow_le_pow_right (by decide) (by omega)
    rw [egInc_of_fast hfast h]
    exact Nat.mul_le_mul htwo hdouble
  · exact (egInc_sixty t).le

/-- Settles O36: the masks and shifts of the rules read as quotients, and the tables of R187 band by band. -/
theorem ratesAndIncrementsAreBounded : Obligations.RatesAndIncrementsAreBounded := by
  refine ⟨ksv_eq, fun m o r => ⟨rateOf_of_ne_zero m o, rateOf_le m o r, ?_, ?_, four_le_rateOf m o⟩, ?_⟩
  · rintro rfl
    exact rateOf_zero m o
  · rintro rfl
    exact rateOf_fifteen m o
  · intro t rate hrate slow fast period
    refine ⟨?_, egInc_le t hrate, egInc_of_lt_four (by decide) t, egInc_sixty t⟩
    split
    case isTrue hlo => exact egInc_of_lt_four hlo t
    case isFalse hlo =>
      split
      case isTrue hslow => exact egInc_of_slow (Nat.le_of_not_lt hlo) hslow t
      case isFalse hfast => exact egInc_of_fast (Nat.le_of_not_lt hfast) hrate t

end Sys2Proof.Machine
end

section
/-! A release with no `WRITE` between (R193): the level falls by the sum of the increments, and the stage is `Off` one tick
after the level has come to 0. -/

namespace Sys2Proof.Machine

/-! ## A run of ticks (R180) -/

theorem ticks_succ (n : Nat) (c : Chip) : ticks (n + 1) c = (nativeTick (ticks n c)).1 := Function.iterate_succ_apply' ..

theorem ticks_regs (n : Nat) (c : Chip) : (ticks n c).regs = c.regs := by
  induction n with
  | zero => rfl
  | succ n ih => rw [ticks_succ, nativeTick_regs, ih]

theorem ticks_timer (n : Nat) (c : Chip) : (ticks n c).timer = c.timer + BitVec.ofNat 14 n := by
  induction n with
  | zero => exact (BitVec.add_zero _).symm
  | succ n ih => rw [ticks_succ, nativeTick_timer, ih, timerNext, BitVec.add_assoc, ← BitVec.ofNat_add]

/-! ## The increments of a run of ticks -/

/-- The sum of the increments of `n` ticks at one rate, the first of them at timer value `t` (R186). -/
def incSum (t : BitVec 14) (rate n : Nat) : Nat := ∑ k ∈ Finset.range n, egInc (t + BitVec.ofNat 14 k) rate

theorem incSum_succ (t : BitVec 14) (rate n : Nat) :
    incSum t rate (n + 1) = incSum t rate n + egInc (t + BitVec.ofNat 14 n) rate := Finset.sum_range_succ ..

theorem incSum_add (t : BitVec 14) (rate a b : Nat) :
    incSum t rate (a + b) = incSum t rate a + incSum (t + BitVec.ofNat 14 a) rate b := by
  rw [incSum, Finset.sum_range_add]
  simp only [BitVec.ofNat_add, ← BitVec.add_assoc]
  rfl

theorem incSum_mono (t : BitVec 14) (rate : Nat) : Monotone (incSum t rate) :=
  monotone_nat_of_le_succ fun n => incSum_succ t rate n ▸ Nat.le_add_right _ _

/-- At the highest rate every tick counts 4. -/
theorem incSum_sixty (t : BitVec 14) (n : Nat) : incSum t 60 n = 4 * n := by
  simp [incSum, egInc_sixty, Nat.mul_comm]

/-! ## Release -/

/-- R193: after `n` ticks of a release the level has fallen by the sum of the increments, and the stage is `Off` exactly when
an earlier tick has left the level at 0. -/
theorem ticks_of_release {c : Chip} {o : OpNum} (h : c.ops[o].stage = .release) (n : Nat) :
    let fallen := incSum c.timer (rateOf c.regs o (fRR c.regs o))
    (ticks n c).ops[o].level.toNat = c.ops[o].level.toNat - fallen n ∧
      (ticks n c).ops[o].stage = if n ≠ 0 ∧ c.ops[o].level.toNat ≤ fallen (n - 1) then .off else .release := by
  intro fallen
  induction n with
  | zero => exact ⟨rfl, h⟩
  | succ n ih =>
    obtain ⟨hlevel, hstage⟩ := ih
    have hfall : fallen (n + 1) = fallen n + egInc (ticks n c).timer (rateOf c.regs o (fRR c.regs o)) := by
      rw [ticks_timer]
      exact incSum_succ ..
    have hmono : fallen (n - 1) ≤ fallen n := incSum_mono _ _ (Nat.sub_le n 1)
    have hsilent : (ticks n c).ops[o].level = 0#9 ↔ c.ops[o].level.toNat ≤ fallen n := by
      rw [← BitVec.toNat_inj, hlevel]
      exact Nat.sub_eq_zero_iff_le
    rw [ticks_succ, nativeTick_level, nativeTick_stage, ticks_regs]
    split at hstage
    case isTrue hoff =>
      rw [envAdvance_of_off hstage, hlevel, hstage, if_pos ⟨Nat.succ_ne_zero n, hoff.2.trans hmono⟩]
      exact ⟨by omega, rfl⟩
    case isFalse =>
      rw [envAdvance_of_falling (.inl hstage), releaseStep_level_toNat, releaseStep_stage, hlevel, hstage, hfall]
      exact ⟨Nat.sub_sub .., by simp only [hsilent, ne_eq, Nat.succ_ne_zero, not_false_eq_true, true_and, Nat.add_sub_cancel]⟩

/-- Settles O40: at rate 60 the sum of the increments is 4 for each tick. -/
theorem fastestReleaseFallsByFour : Obligations.FastestReleaseFallsByFour := by
  intro c o n hrel hRR
  obtain ⟨hlevel, hstage⟩ := ticks_of_release hrel n
  rw [hRR, rateOf_fifteen, incSum_sixty] at hlevel hstage
  refine ⟨hlevel, hstage.trans ?_⟩
  congr 1
  rw [eq_iff_iff]
  omega

/-! ## The slowest release -/

/-- The timer value at step `j` of the pattern, for a rate from 4 up (R186); at rates from 48 every tick is a step. -/
def stepTimer (rate j : Nat) : BitVec 14 := BitVec.ofNat 14 (2 ^ (12 - rate / 4) * j)

theorem stepTimer_toNat {rate j : Nat} (hlo : 4 ≤ rate) (hj : j < 8) : (stepTimer rate j).toNat = 2 ^ (12 - rate / 4) * j := by
  have hperiod : 2 ^ (12 - rate / 4) ≤ 2 ^ 11 := Nat.pow_le_pow_right (by decide) (by omega)
  have hlt : 2 ^ (12 - rate / 4) * j ≤ 2 ^ 11 * 7 := Nat.mul_le_mul hperiod (Nat.le_of_lt_succ hj)
  rw [stepTimer, BitVec.toNat_ofNat, Nat.mod_eq_of_lt (hlt.trans_lt (by decide))]

/-- R187: every pattern counts at its odd steps. -/
theorem one_le_egInc_stepTimer {rate j : Nat} (hlo : 4 ≤ rate) (hhi : rate ≤ 60) (hj : j < 8) (hodd : j % 2 = 1) :
    1 ≤ egInc (stepTimer rate j) rate := by
  have hrow : rate % 4 < 4 := Nat.mod_lt _ (by decide)
  rcases lt_or_ge rate 52 with hslow | hfast
  · rw [egInc_of_slow hlo hslow, stepTimer_toNat hlo hj, if_pos (Nat.mul_mod_right _ _),
      Nat.mul_div_cancel_left _ (by positivity), Nat.mod_eq_of_lt hj]
    exact ((egIncStep_slow _ hrow j hj).2 hodd).ge
  · rw [egInc_of_fast hfast hhi]
    exact Nat.mul_pos (egIncStep_fast _ hrow _ (Nat.mod_lt _ (by decide))).1 (by positivity)

/-- The timer values of the four odd steps. -/
def oddStepTimers (rate : Nat) : Finset (BitVec 14) := ({1, 3, 5, 7} : Finset Nat).image (stepTimer rate)

theorem oddStepTimers_card {rate : Nat} (hlo : 4 ≤ rate) : (oddStepTimers rate).card = 4 := by
  have hlt : ∀ j ∈ ({1, 3, 5, 7} : Finset Nat), j < 8 := by decide
  refine Finset.card_image_of_injOn fun i hi j hj hij => ?_
  have hval := congrArg BitVec.toNat hij
  rw [stepTimer_toNat hlo (hlt i hi), stepTimer_toNat hlo (hlt j hj)] at hval
  exact Nat.eq_of_mul_eq_mul_left (by positivity) hval

theorem one_le_egInc_of_mem_oddStepTimers {rate : Nat} (hlo : 4 ≤ rate) (hhi : rate ≤ 60) {t : BitVec 14}
    (ht : t ∈ oddStepTimers rate) : 1 ≤ egInc t rate := by
  have hodd : ∀ j ∈ ({1, 3, 5, 7} : Finset Nat), j < 8 ∧ j % 2 = 1 := by decide
  obtain ⟨j, hj, rfl⟩ := Finset.mem_image.mp ht
  exact one_le_egInc_stepTimer hlo hhi (hodd j hj).1 (hodd j hj).2

/-- Any run of 16384 ticks passes every timer value, so at every rate from 4 up it counts at least 4. -/
theorem four_le_incSum_cycle (t : BitVec 14) {rate : Nat} (hlo : 4 ≤ rate) (hhi : rate ≤ 60) : 4 ≤ incSum t rate 16384 := by
  have hinj : Set.InjOn (fun x : BitVec 14 => (x - t).toNat) (oddStepTimers rate) := fun x _ y _ hxy =>
    sub_left_injective (BitVec.eq_of_toNat_eq hxy)
  calc 4 = ∑ _x ∈ oddStepTimers rate, 1 := by rw [Finset.sum_const, oddStepTimers_card hlo]; rfl
    _ ≤ ∑ x ∈ oddStepTimers rate, egInc (t + BitVec.ofNat 14 (x - t).toNat) rate := by
        refine Finset.sum_le_sum fun x hx => ?_
        rw [BitVec.ofNat_toNat, BitVec.setWidth_eq, add_sub_cancel]
        exact one_le_egInc_of_mem_oddStepTimers hlo hhi hx
    _ = ∑ k ∈ (oddStepTimers rate).image fun x => (x - t).toNat, egInc (t + BitVec.ofNat 14 k) rate :=
        (Finset.sum_image (f := fun k => egInc (t + BitVec.ofNat 14 k) rate) hinj).symm
    _ ≤ incSum t rate 16384 := by
        refine Finset.sum_le_sum_of_subset fun k hk => ?_
        obtain ⟨x, -, rfl⟩ := Finset.mem_image.mp hk
        exact Finset.mem_range.mpr (x - t).isLt

theorem le_incSum_cycles (t : BitVec 14) {rate : Nat} (hlo : 4 ≤ rate) (hhi : rate ≤ 60) (q : Nat) :
    4 * q ≤ incSum t rate (16384 * q) := by
  induction q with
  | zero => exact Nat.zero_le _
  | succ q ih =>
    have hcycle := four_le_incSum_cycle (t + BitVec.ofNat 14 (16384 * q)) hlo hhi
    rw [Nat.mul_succ 16384, incSum_add]
    omega

/-- Settles O39: in 128 cycles of the timer the increments sum to 512 at least. -/
theorem releaseRunsOutAtEveryRate : Obligations.ReleaseRunsOutAtEveryRate := by
  intro c o n hrel hRR hn
  obtain ⟨hlevel, hstage⟩ := ticks_of_release hrel n
  have hlt := c.ops[o].level.isLt
  have hcycles : 512 ≤ incSum c.timer (rateOf c.regs o (fRR c.regs o)) 2097152 :=
    le_incSum_cycles c.timer (four_le_rateOf _ _ hRR) (rateOf_le _ _ _) 128
  have hbefore := hcycles.trans (incSum_mono c.timer _ (show 2097152 ≤ n - 1 by omega))
  have hnow := hbefore.trans (incSum_mono c.timer _ (Nat.sub_le n 1))
  rw [if_pos ⟨by omega, by omega⟩] at hstage
  refine ⟨hstage, BitVec.eq_of_toNat_eq ?_⟩
  rw [hlevel]
  exact Nat.sub_eq_zero_of_le (by omega)

end Sys2Proof.Machine
end

section
/-! Attenuation (R194 to R196) and the exponential conversion (R197, R199): their values and ranges, and the silence of an
operator at level 0. -/

namespace Sys2Proof.Machine

/-! ## The key-scale level (R194) -/

/-- `KslAtt` before the shift by `KSL`: the pitch of the control channel alone. -/
def kslPitch (m : Memory) (c : ChanNum) : Nat := 4 * kslRom ((fFNUM m c).extractLsb' 6 4) - 32 * (8 - (fBLOCK m c).toNat)

theorem kslRom_le : ∀ i : BitVec 4, kslRom i ≤ 64 := by decide

theorem kslPitch_le (m : Memory) (c : ChanNum) : kslPitch m c ≤ 224 := by
  have hrom := kslRom_le ((fFNUM m c).extractLsb' 6 4)
  have hblock := (fBLOCK m c).isLt
  unfold kslPitch
  omega

theorem kslRom_fFNUM (m : Memory) (c : ChanNum) :
    kslRom ((fFNUM m c).extractLsb' 6 4) = kslRomTable.getD ((fFNUM m c).toNat / 64) 0 := by
  have hfnum := (fFNUM m c).isLt
  rw [kslRom, BitVec.extractLsb'_toNat, Nat.shiftRight_eq_div_pow, Nat.mod_eq_of_lt (by omega)]

theorem kslAtt_eq_shiftRight (m : Memory) (o : OpNum) : kslAtt m o = kslPitch m (ctl m o) >>> kslShift (fKSL m o) := by
  simp only [kslAtt, kslPitch, Nat.shiftLeft_eq, Nat.mul_comm, Nat.reducePow]

theorem kslAtt_le (m : Memory) (o : OpNum) : kslAtt m o ≤ 224 := by
  rw [kslAtt_eq_shiftRight]
  exact (Nat.shiftRight_le _ _).trans (kslPitch_le _ _)

theorem kslShift_eq : ∀ i : BitVec 2, kslShift i = if i = 0#2 then 8 else if i = 1#2 then 1 else if i = 2#2 then 2 else 0 := by
  decide

/-- R194: `KSL` = 0 shifts everything out, and `KSL` = 1, 2, 3 take a half, a quarter and the whole. -/
theorem kslAtt_eq (m : Memory) (o : OpNum) :
    kslAtt m o = if fKSL m o = 0#2 then 0 else if fKSL m o = 1#2 then kslPitch m (ctl m o) / 2
      else if fKSL m o = 2#2 then kslPitch m (ctl m o) / 4 else kslPitch m (ctl m o) := by
  have hle := kslPitch_le m (ctl m o)
  rw [kslAtt_eq_shiftRight, kslShift_eq, Nat.shiftRight_eq_div_pow]
  split_ifs <;> omega

/-! ## Tremolo and the total attenuation (R195, R196) -/

/-- R195: the triangle rises to 105 and falls again, in steps of 1. -/
theorem tremAtt_eq (m : Memory) {tp : BitVec 8} (htp : tp.toNat < 210) :
    tremAtt m tp = min tp.toNat (210 - tp.toNat) / (if fDAM m then 4 else 16) := by
  have htriangle : (if tp.toNat < 105 then tp.toNat else tremLen - tp.toNat) = min tp.toNat (210 - tp.toNat) := by
    unfold tremLen
    split <;> omega
  rw [tremAtt, htriangle, Nat.shiftRight_eq_div_pow]
  cases fDAM m <;> rfl

theorem tremAtt_le (m : Memory) {tp : BitVec 8} (htp : tp.toNat < 210) : tremAtt m tp ≤ 26 := by
  rw [tremAtt_eq m htp]
  split <;> omega

theorem attOf_eq (m : Memory) (tp : BitVec 8) (o : OpNum) (op : Operator) :
    attOf m tp o op =
      (511 - op.level.toNat) + 4 * (fTL m o).toNat + kslAtt m o + (if fAM m o then tremAtt m tp else 0) := by
  rw [attOf, Nat.shiftLeft_eq, Nat.mul_comm]

/-- R196: the largest of each of the four terms. -/
theorem attOf_le (m : Memory) {tp : BitVec 8} (htp : tp.toNat < 210) (o : OpNum) (op : Operator) :
    attOf m tp o op ≤ 1013 := by
  have hTL := (fTL m o).isLt
  have hksl := kslAtt_le m o
  have htrem := tremAtt_le m htp
  rw [attOf_eq]
  split <;> omega

/-- Settles O43: the shifts of the rules read as products and quotients, and the sum of the largest terms. -/
theorem attenuationIsBounded : Obligations.AttenuationIsBounded := by
  intro m tp o op htp c rom k triangle
  have hk : kslPitch m c = k := congrArg (4 * · - _) (kslRom_fFNUM m c)
  exact ⟨hk ▸ kslAtt_eq m o, tremAtt_eq m htp, attOf_eq m tp o op, attOf_le m htp o op⟩

/-! ## The exponential conversion (R197, R199) -/

/-- R197: from 0xC00 up the halvings leave nothing, so the bound of the model on the log value never shows. -/
theorem exprom_mantissa_div_eq_zero {i k : Nat} (hk : 12 ≤ k) : (exprom i + 1024) * 2 / 2 ^ k = 0 := by
  have hexp := exprom_le i
  have hpow : 2 ^ 12 ≤ 2 ^ k := Nat.pow_le_pow_right (by decide) hk
  exact Nat.div_eq_of_lt (by omega)

theorem expOf_eq (l : Nat) : expOf l = (exprom (255 - l % 256) + 1024) * 2 / 2 ^ (l / 256) := by
  simp only [expOf, Nat.shiftLeft_eq, Nat.shiftRight_eq_div_pow, Nat.pow_one]
  rcases le_or_gt l 0x1FFF with hle | hgt
  · rw [Nat.min_eq_left hle]
  · rw [exprom_mantissa_div_eq_zero (k := l / 256) (by omega)]
    exact exprom_mantissa_div_eq_zero (by omega)

theorem expOf_eq_zero {l : Nat} (h : 0xC00 ≤ l) : expOf l = 0 := by
  rw [expOf_eq]
  exact exprom_mantissa_div_eq_zero (by omega)

/-- `EXPROM[i]` is the integer nearest to `(2 ^ (i / 256) - 1) * 1024` (R199), said in integers. -/
abbrev ExpromNearest (i : Nat) : Prop :=
  (2 * exprom i + 2047) ^ 256 ≤ 2048 ^ 256 * 2 ^ i ∧ 2048 ^ 256 * 2 ^ i < (2 * exprom i + 2049) ^ 256

/-- A property of the 256 entries of a table, from its quarters of 64 entries. -/
theorem forall_lt_of_quarters {P : Nat → Prop} (h : ∀ q : Fin 4, ∀ r : Fin 64, P (64 * q.val + r.val)) {i : Nat}
    (hi : i < 256) : P i := by
  have hentry := h ⟨i / 64, by omega⟩ ⟨i % 64, by omega⟩
  rwa [Nat.div_add_mod] at hentry

theorem expromNearest_of_lt {i : Nat} (hi : i < 256) : ExpromNearest i := forall_lt_of_quarters (by decide) hi

/-- Settles O41: the halvings as a quotient, and the table quarter by quarter. -/
theorem exponentialConversionIsBounded : Obligations.ExponentialConversionIsBounded :=
  ⟨expOf_eq, fun i => expromNearest_of_lt i.isLt, expOf_le, fun _ h => expOf_eq_zero h, by decide⟩

end Sys2Proof.Machine
end

section
/-! The eight waveforms (R200 to R208): each in its first half-cycle, how the second half-cycle comes from it, and the samples
the rules list. -/

namespace Sys2Proof.Machine

/-! ## The bits of a position -/

theorem getLsbD_nine (p : BitVec 10) : p.getLsbD 9 = decide (512 ≤ p.toNat) := by
  have hp := p.isLt
  rw [← BitVec.testBit_toNat, Nat.testBit_eq_decide_div_mod_eq, decide_eq_decide]
  omega

theorem getLsbD_eight (p : BitVec 10) : p.getLsbD 8 = decide (256 ≤ p.toNat % 512) := by
  rw [← BitVec.testBit_toNat, Nat.testBit_eq_decide_div_mod_eq, decide_eq_decide]
  omega

theorem getLsbD_seven (p : BitVec 10) : p.getLsbD 7 = decide (128 ≤ p.toNat % 256) := by
  rw [← BitVec.testBit_toNat, Nat.testBit_eq_decide_div_mod_eq, decide_eq_decide]
  omega

theorem ofNat_eight_congr {a b : Nat} (h : a % 256 = b % 256) : BitVec.ofNat 8 a = BitVec.ofNat 8 b :=
  BitVec.eq_of_toNat_eq (by rwa [BitVec.toNat_ofNat, BitVec.toNat_ofNat])

/-- The low eight bits of a position, as a table index. -/
theorem extractLsb'_low_byte (p : BitVec 10) : p.extractLsb' 0 8 = BitVec.ofNat 8 p.toNat := by
  rw [BitVec.extractLsb', Nat.shiftRight_zero]

/-- Flipping every bit of a table index runs the table backward. -/
theorem ofNat_eight_xor (n : Nat) : BitVec.ofNat 8 n ^^^ 0xFF#8 = BitVec.ofNat 8 (255 - n % 256) := by
  have hflip : BitVec.ofNat 8 n ^^^ 0xFF#8 = ~~~(BitVec.ofNat 8 n) := BitVec.xor_allOnes
  apply BitVec.eq_of_toNat_eq
  rw [hflip, BitVec.toNat_not, BitVec.toNat_ofNat, BitVec.toNat_ofNat]
  omega

theorem xor_low_byte_toNat (p : BitVec 10) : (p ^^^ 0xFF#10).toNat % 256 = 255 - p.toNat % 256 := by
  have hlow : (p ^^^ 0xFF#10).extractLsb' 0 8 = p.extractLsb' 0 8 ^^^ 0xFF#8 := BitVec.extractLsb'_xor
  rw [extractLsb'_low_byte, extractLsb'_low_byte, ofNat_eight_xor, ← BitVec.toNat_inj] at hlow
  simp only [BitVec.toNat_ofNat] at hlow
  omega

theorem extractLsb'_low_byte_double (p : BitVec 10) : (p <<< 1).extractLsb' 0 8 = BitVec.ofNat 8 (2 * p.toNat) := by
  rw [extractLsb'_low_byte, BitVec.toNat_shiftLeft, Nat.shiftLeft_eq]
  exact ofNat_eight_congr (by omega)

/-! ## The two lookups (R200, R205) -/

theorem quarter_eq (p : BitVec 10) :
    quarter p = logsin (BitVec.ofNat 8 (if p.toNat % 512 < 256 then p.toNat % 512 else 511 - p.toNat % 512)) := by
  simp only [quarter, getLsbD_eight, decide_eq_true_eq, extractLsb'_low_byte, ofNat_eight_xor, ← apply_ite logsin]
  congr 1
  split_ifs <;> exact ofNat_eight_congr (by omega)

theorem doubleSine_of_first {p : BitVec 10} (hp : p.toNat < 512) :
    doubleSine p = logsin (BitVec.ofNat 8
      (if p.toNat % 256 < 128 then 2 * (p.toNat % 256) else 2 * (255 - p.toNat % 256))) := by
  have hflip := xor_low_byte_toNat p
  simp only [doubleSine, getLsbD_nine, getLsbD_seven, decide_eq_true_eq, extractLsb'_low_byte_double, Nat.not_le.mpr hp,
    if_false, ← apply_ite logsin]
  congr 1
  split_ifs <;> exact ofNat_eight_congr (by omega)

theorem doubleSine_of_second {p : BitVec 10} (hp : 512 ≤ p.toNat) : doubleSine p = mute := by
  simp only [doubleSine, getLsbD_nine, decide_eq_true_eq, if_pos hp]

/-! ## The second half-cycle: the position 512 further on -/

section
variable {p : BitVec 10} (hp : p.toNat < 512)
include hp

theorem add_half_toNat : (p + 512#10).toNat = p.toNat + 512 := by
  rw [BitVec.toNat_add]
  exact Nat.mod_eq_of_lt (by simp only [BitVec.toNat_ofNat]; omega)

theorem getLsbD_nine_of_first : p.getLsbD 9 = false := by rw [getLsbD_nine, decide_eq_false_iff_not, Nat.not_le]; exact hp

theorem getLsbD_nine_add_half : (p + 512#10).getLsbD 9 = true := by
  rw [getLsbD_nine, add_half_toNat hp, decide_eq_true_eq]
  exact Nat.le_add_left _ _

theorem getLsbD_eight_add_half : (p + 512#10).getLsbD 8 = p.getLsbD 8 := by
  rw [getLsbD_eight, getLsbD_eight, add_half_toNat hp, Nat.add_mod_right]

theorem extractLsb'_low_byte_add_half : (p + 512#10).extractLsb' 0 8 = p.extractLsb' 0 8 := by
  rw [extractLsb'_low_byte, extractLsb'_low_byte, add_half_toNat hp]
  exact ofNat_eight_congr (by omega)

theorem quarter_add_half : quarter (p + 512#10) = quarter p := by
  rw [quarter_eq, quarter_eq, add_half_toNat hp, Nat.add_mod_right]

theorem doubleSine_add_half : doubleSine (p + 512#10) = mute :=
  doubleSine_of_second (by rw [add_half_toNat hp]; omega)

end

/-! ## The log value and the sign of each waveform (R201 to R208) -/

theorem wave_eq {w : BitVec 3} {p : BitVec 10} {l : Nat} {neg : Bool} (h : waveLog w p = (l, neg)) (a : Nat) :
    wave w p a = if neg then -(expOf (l + 8 * a) : Int) - 1 else expOf (l + 8 * a) := by
  rw [wave, h, Nat.shiftLeft_eq, Nat.mul_comm, inv]

theorem expOf_mute (a : Nat) : expOf (mute + 8 * a) = 0 := expOf_eq_zero (by unfold mute; omega)

theorem waveLog_zero (p : BitVec 10) : waveLog 0#3 p = (quarter p, p.getLsbD 9) := rfl
theorem waveLog_one (p : BitVec 10) : waveLog 1#3 p = (if p.getLsbD 9 then mute else quarter p, false) := rfl
theorem waveLog_two (p : BitVec 10) : waveLog 2#3 p = (quarter p, false) := rfl
theorem waveLog_three (p : BitVec 10) :
    waveLog 3#3 p = (if p.getLsbD 8 then mute else logsin (p.extractLsb' 0 8), false) := rfl
theorem waveLog_four (p : BitVec 10) : waveLog 4#3 p = (doubleSine p, !p.getLsbD 9 && p.getLsbD 8) := rfl
theorem waveLog_five (p : BitVec 10) : waveLog 5#3 p = (doubleSine p, false) := rfl
theorem waveLog_six (p : BitVec 10) : waveLog 6#3 p = (0, p.getLsbD 9) := rfl
theorem waveLog_seven (p : BitVec 10) : waveLog 7#3 p =
    if p.getLsbD 9 then ((p.extractLsb' 0 9 ^^^ 0x1FF#9).toNat <<< 3, true) else (p.toNat <<< 3, false) := rfl

/-! ## Waveform by waveform -/

section
variable {p : BitVec 10} (hp : p.toNat < 512) (a : Nat)
include hp

theorem wave_zero_of_first : wave 0#3 p a = expOf (quarter p + 8 * a) := by
  rw [wave_eq (waveLog_zero p), getLsbD_nine_of_first hp]
  rfl

theorem wave_zero_add_half : wave 0#3 (p + 512#10) a = -(wave 0#3 p a) - 1 := by
  rw [wave_zero_of_first hp, wave_eq (waveLog_zero _), getLsbD_nine_add_half hp, quarter_add_half hp]
  rfl

theorem wave_one_of_first : wave 1#3 p a = wave 0#3 p a := by
  rw [wave_zero_of_first hp, wave_eq (waveLog_one p), getLsbD_nine_of_first hp]
  rfl

theorem wave_one_add_half : wave 1#3 (p + 512#10) a = 0 := by
  rw [wave_eq (waveLog_one _), getLsbD_nine_add_half hp, if_pos rfl, expOf_mute]
  rfl

theorem wave_two_of_first : wave 2#3 p a = wave 0#3 p a := by
  rw [wave_zero_of_first hp, wave_eq (waveLog_two p)]
  rfl

theorem wave_two_add_half : wave 2#3 (p + 512#10) a = wave 0#3 p a := by
  rw [wave_zero_of_first hp, wave_eq (waveLog_two _), quarter_add_half hp]
  rfl

theorem wave_three_of_first : wave 3#3 p a = if p.toNat < 256 then wave 0#3 p a else 0 := by
  rw [wave_eq (waveLog_three p), if_neg Bool.false_ne_true, getLsbD_eight, Nat.mod_eq_of_lt hp]
  rcases lt_or_ge p.toNat 256 with hrising | hfalling
  · rw [wave_zero_of_first hp, quarter_eq, Nat.mod_eq_of_lt hp, if_pos hrising, if_pos hrising, extractLsb'_low_byte,
      decide_eq_false hrising.not_ge]
    rfl
  · rw [if_neg hfalling.not_gt, decide_eq_true hfalling, if_pos rfl, expOf_mute]
    rfl

theorem wave_three_add_half : wave 3#3 (p + 512#10) a = wave 3#3 p a := by
  rw [wave_eq (waveLog_three _), wave_eq (waveLog_three p), getLsbD_eight_add_half hp, extractLsb'_low_byte_add_half hp]

theorem wave_five_add_half : wave 5#3 (p + 512#10) a = 0 := by
  rw [wave_eq (waveLog_five _), doubleSine_add_half hp, expOf_mute]
  rfl

theorem wave_four_of_first : wave 4#3 p a = if p.toNat < 256 then wave 5#3 p a else -(wave 5#3 p a) - 1 := by
  rw [wave_eq (waveLog_four p), wave_eq (waveLog_five p), getLsbD_nine_of_first hp, getLsbD_eight, Nat.mod_eq_of_lt hp]
  rcases lt_or_ge p.toNat 256 with hplus | hminus
  · rw [if_pos hplus, decide_eq_false hplus.not_ge]
    rfl
  · rw [if_neg hminus.not_gt, decide_eq_true hminus]
    rfl

theorem wave_four_add_half : wave 4#3 (p + 512#10) a = 0 := by
  rw [wave_eq (waveLog_four _), doubleSine_add_half hp, expOf_mute, getLsbD_nine_add_half hp]
  rfl

theorem wave_six_of_first : wave 6#3 p a = expOf (8 * a) := by
  rw [wave_eq (waveLog_six p), getLsbD_nine_of_first hp, Nat.zero_add]
  rfl

theorem wave_six_add_half : wave 6#3 (p + 512#10) a = -(expOf (8 * a) : Int) - 1 := by
  rw [wave_eq (waveLog_six _), getLsbD_nine_add_half hp, Nat.zero_add]
  rfl

theorem wave_seven_of_first : wave 7#3 p a = expOf (8 * p.toNat + 8 * a) := by
  have hlog : waveLog 7#3 p = (8 * p.toNat, false) := by
    rw [waveLog_seven, getLsbD_nine_of_first hp, if_neg Bool.false_ne_true, Nat.shiftLeft_eq, Nat.mul_comm]
  rw [wave_eq hlog]
  rfl

/-- R208: flipping every bit of the position mirrors the second half-cycle. -/
theorem wave_seven_mirror : wave 7#3 (1023#10 - p) a = -(wave 7#3 p a) - 1 := by
  have hmirror : (1023#10 - p).toNat = 1023 - p.toNat := by bv_omega
  have hnine : (1023#10 - p).getLsbD 9 = true := by
    rw [getLsbD_nine, hmirror, decide_eq_true_eq]
    omega
  have hflip : (1023#10 - p).extractLsb' 0 9 ^^^ 0x1FF#9 = ~~~((1023#10 - p).extractLsb' 0 9) := BitVec.xor_allOnes
  have hpos : ((1023#10 - p).extractLsb' 0 9 ^^^ 0x1FF#9).toNat = p.toNat := by
    rw [hflip, BitVec.toNat_not, BitVec.extractLsb'_toNat, hmirror]
    omega
  have hlog : waveLog 7#3 (1023#10 - p) = (8 * p.toNat, true) := by
    rw [waveLog_seven, hnine, if_pos rfl, hpos, Nat.shiftLeft_eq, Nat.mul_comm]
  rw [wave_seven_of_first hp, wave_eq hlog]
  rfl

end

/-- Settles O44, waveform by waveform. -/
theorem secondHalfCyclesOfWaveforms : Obligations.SecondHalfCyclesOfWaveforms := by
  intro p a hp
  refine ⟨?_, wave_zero_add_half hp a, wave_one_of_first hp a, wave_one_add_half hp a, wave_two_of_first hp a,
    wave_two_add_half hp a, wave_three_of_first hp a, wave_three_add_half hp a, ?_, wave_five_add_half hp a,
    wave_four_of_first hp a, wave_four_add_half hp a, wave_six_of_first hp a, wave_six_add_half hp a,
    wave_seven_of_first hp a, wave_seven_mirror hp a⟩
  · rw [wave_zero_of_first hp, quarter_eq, Nat.mod_eq_of_lt hp]
  · rw [wave_eq (waveLog_five p), doubleSine_of_first hp]
    rfl

/-! ## Silence (R210) -/

/-- An attenuation of 384 or more, 0xC00 in the logarithmic domain, leaves 0 or its ones' complement. -/
theorem wave_of_silent (w : BitVec 3) (p : BitVec 10) {a : Nat} (ha : 384 ≤ a) : wave w p a = 0 ∨ wave w p a = -1 := by
  rw [wave_eq (l := (waveLog w p).1) (neg := (waveLog w p).2) rfl, expOf_eq_zero (by omega)]
  split
  · exact .inr rfl
  · exact .inl rfl

/-- Settles O42: level 0 alone attenuates by 511. -/
theorem silentOperatorGivesZeroOrMinusOne : Obligations.SilentOperatorGivesZeroOrMinusOne := by
  intro m tp n ops o hlevel
  refine wave_of_silent _ _ ?_
  rw [attOf_eq, hlevel, BitVec.toNat_ofNat]
  omega

/-! ## The tables and the listed samples -/

theorem logsin_falls_of_lt {i : Nat} (hi : i < 256) : logsinTable.getD (i + 1) 0 ≤ logsinTable.getD i 0 :=
  forall_lt_of_quarters (P := fun i => logsinTable.getD (i + 1) 0 ≤ logsinTable.getD i 0) (by decide) hi

theorem logsinTable_length : logsinTable.length = 256 := by
  simp only [logsinTable, List.length_append]
  rfl

theorem expromTable_length : expromTable.length = 256 := by
  simp only [expromTable, List.length_append]
  rfl

theorem logsinTable_sum : logsinTable.sum = 65406 := by
  simp only [logsinTable, List.sum_append]
  decide

theorem expromTable_sum : expromTable.sum = 115543 := by
  simp only [expromTable, List.sum_append]
  decide

/-- Settles O59: each listed sample is a value of the model's own `wave`. -/
theorem waveformSamples : Obligations.WaveformSamples :=
  ⟨logsinTable_length, logsinTable_sum, expromTable_length, expromTable_sum,
    fun i => logsin_falls_of_lt (i.isLt.trans (by decide)), by decide, by decide, by decide, by decide, by decide⟩

end Sys2Proof.Machine
end

section
/-! The modulation chain of a tick (R180, R209 to R211, R249): the operators in increasing number each modulate by samples that
are already those of this tick, so the order of evaluation does not show; and the feedback of the first operators. -/

namespace Sys2Proof.Machine

/-! ## Pass 2, turn by turn (R180) -/

/-- A run of turns moves no operator that has no turn in it. -/
theorem foldl_sampleOp_of_not_mem (m : Memory) (tp : BitVec 8) (n : BitVec 23) {l : List OpNum} (ops : Vector Operator 36)
    {o : OpNum} (h : o ∉ l) : (l.foldl (sampleOp m tp n) ops)[o] = ops[o] := by
  induction l generalizing ops with
  | nil => rfl
  | cons p l ih =>
    obtain ⟨hp, hl⟩ := not_or.mp (List.mem_cons.not.mp h)
    rw [List.foldl_cons, ih _ hl, sampleOp_get, if_neg hp]

/-- The turns before and after the turn of `o`. -/
theorem exists_opOrder_split (o : OpNum) :
    ∃ l₁ l₂, opOrder = l₁ ++ o :: l₂ ∧ (∀ p, p ∈ l₁ ↔ p < o) ∧ ∀ p, p ∈ l₂ → o < p := by
  obtain ⟨l₁, l₂, hsplit⟩ := List.append_of_mem (List.mem_finRange o)
  have hsorted := List.pairwise_lt_finRange 36
  rw [hsplit] at hsorted
  obtain ⟨-, htail, hbefore⟩ := List.pairwise_append.mp hsorted
  have hafter : ∀ p ∈ l₂, o < p := fun p => List.rel_of_pairwise_cons htail
  refine ⟨l₁, l₂, hsplit, fun p => ⟨fun hp => hbefore p hp o List.mem_cons_self, fun hp => ?_⟩, hafter⟩
  have hmem : p ∈ l₁ ++ o :: l₂ := hsplit ▸ List.mem_finRange p
  rcases List.mem_append.mp hmem with h₁ | h₂
  · exact h₁
  · rcases List.mem_cons.mp h₂ with rfl | h₂
    · exact absurd hp (lt_irrefl _)
    · exact absurd hp (hafter p h₂).asymm

/-- What the turn of operator `o` finds: `o` itself as pass 1 left it, every lower operator as the tick leaves it, and every
phase settled. -/
theorem pass2_turn (c : Chip) (ops : Vector Operator 36) (o : OpNum) :
    ∃ found : Vector Operator 36,
      found[o] = ops[o] ∧ (∀ p < o, found[p] = (pass2 c ops)[p]) ∧ (∀ p : OpNum, found[p].phase = (pass2 c ops)[p].phase) ∧
        (pass2 c ops)[o] = { ops[o] with prevOut := ops[o].out, out := opSample c.regs c.tremPos c.noise found o } := by
  obtain ⟨l₁, l₂, hsplit, hbefore, hafter⟩ := exists_opOrder_split o
  have hpass : pass2 c ops = l₂.foldl (sampleOp c.regs c.tremPos c.noise)
      (sampleOp c.regs c.tremPos c.noise (l₁.foldl (sampleOp c.regs c.tremPos c.noise) ops) o) := by
    rw [pass2, hsplit, List.foldl_append, List.foldl_cons]
  have hself : (l₁.foldl (sampleOp c.regs c.tremPos c.noise) ops)[o] = ops[o] :=
    foldl_sampleOp_of_not_mem _ _ _ _ fun h => lt_irrefl o ((hbefore o).mp h)
  refine ⟨l₁.foldl (sampleOp c.regs c.tremPos c.noise) ops, hself, fun p hp => ?_, fun p => ?_, ?_⟩
  · rw [hpass, foldl_sampleOp_of_not_mem _ _ _ _ fun h => hp.asymm (hafter p h), sampleOp_get, if_neg hp.ne]
  · exact (foldl_sampleOp_frame _ _ _ _ _ p).1.trans (foldl_sampleOp_frame _ _ _ _ _ p).1.symm
  · rw [hpass, foldl_sampleOp_of_not_mem _ _ _ _ fun h => lt_irrefl o (hafter o h), sampleOp_get, if_pos rfl, hself]

/-! ## What a sample reads of an operator -/

theorem attOf_eq_of_level {op op' : Operator} (h : op.level = op'.level) (m : Memory) (tp : BitVec 8) (o : OpNum) :
    attOf m tp o op = attOf m tp o op' := by
  rw [attOf, attOf, h]

theorem fbMod_eq_of_samples {op op' : Operator} (hout : op.out = op'.out) (hprev : op.prevOut = op'.prevOut) (m : Memory)
    (o : OpNum) : fbMod m o op = fbMod m o op' := by
  rw [fbMod, fbMod, hout, hprev]

/-- R29: the waveform position is the phase without its nine fraction bits. -/
theorem phasePos_toNat (op : Operator) : (phasePos op).toNat = op.phase.toNat / 512 := by
  have hphase := op.phase.isLt
  rw [phasePos, BitVec.extractLsb'_toNat, Nat.shiftRight_eq_div_pow]
  omega

/-! ## The modulation input (R249) -/

theorem pairSecond_of_fourOpSecond {m : Memory} {c : ChanNum} (h : chanMode m c = .fourOpSecond) : pairSecond m c = true := by
  unfold chanMode at h
  split_ifs at h
  assumption

theorem opBelow_lt_of_second : ∀ o : OpNum, isFirstOp o = false → opBelow o < o := by decide

theorem opBelow_lt_of_pairOfSecond : ∀ o : OpNum, pairOfSecond (chOf o) ≠ none → opBelow o < o := by decide

/-- In the second channel of a pair even the first operator has one below it. -/
theorem opBelow_lt_of_fourOpSecond {m : Memory} {o : OpNum} (h : chanMode m (chOf o) = .fourOpSecond) : opBelow o < o := by
  obtain ⟨n, hn, -⟩ := pairSecond_iff.mp (pairSecond_of_fourOpSecond h)
  exact opBelow_lt_of_pairOfSecond o (by simp [hn])

/-- The modulation input reads the samples of lower operators, and by feedback those of the operator itself. -/
theorem modIn_eq_settledModIn {found before after : Vector Operator 36} {o : OpNum} (hout : found[o].out = before[o].out)
    (hprev : found[o].prevOut = before[o].prevOut) (hbelow : ∀ p < o, found[p] = after[p]) (m : Memory) :
    modIn m found o = settledModIn m before after o := by
  have hserial : (if isFirstOp o then fbMod m o found[o] else if fCNT m (chOf o) then 0 else found[opBelow o].out) =
      if isFirstOp o then fbMod m o before[o] else if fCNT m (chOf o) then 0 else after[opBelow o].out := by
    cases hfirst : isFirstOp o with
    | true => exact fbMod_eq_of_samples hout hprev m o
    | false => simp only [Bool.false_eq_true, if_false, hbelow _ (opBelow_lt_of_second o hfirst)]
  simp only [modIn, settledModIn]
  cases hmode : chanMode m (chOf o) with
  | twoOp => exact hserial
  | fourOpFirst => exact hserial
  | rhythm => exact if_congr Iff.rfl hserial rfl
  | fourOpSecond => simp only [hbelow _ (opBelow_lt_of_fourOpSecond hmode)]

/-! ## The waveform position (R209, R262 to R265) -/

/-- The rhythm positions read the phases of the hi-hat and the cymbal, nothing of a sample. -/
theorem phaseIn_of_rhythm {m : Memory} {o : OpNum} (h : fRYT m = true ∧ (o = 13 ∨ o = 16 ∨ o = 17))
    {ops ops' : Vector Operator 36} (hphase : ∀ p : OpNum, ops[p].phase = ops'[p].phase) (n : BitVec 23) :
    phaseIn m n ops o = phaseIn m n ops' o := by
  obtain ⟨hryt, rfl | rfl | rfl⟩ := h <;> simp only [phaseIn, phasePos, hryt, hphase] <;> rfl

theorem phaseIn_of_not_rhythm {m : Memory} {o : OpNum} (h : ¬ (fRYT m = true ∧ (o = 13 ∨ o = 16 ∨ o = 17)))
    (n : BitVec 23) (ops : Vector Operator 36) : phaseIn m n ops o = modulatedPos m ops o := by
  simp only [phaseIn]
  cases hryt : fRYT m with
  | false => rfl
  | true =>
    obtain ⟨h13, h16, h17⟩ : o ≠ 13 ∧ o ≠ 16 ∧ o ≠ 17 := by simpa [hryt] using h
    rw [if_pos rfl, if_neg h13, if_neg h16, if_neg h17]

theorem modulatedPos_eq (m : Memory) (ops : Vector Operator 36) (o : OpNum) :
    modulatedPos m ops o = BitVec.ofInt 10 ((ops[o].phase.toNat / 512 : Nat) + modIn m ops o) := by
  rw [modulatedPos, phasePos_toNat]

/-- A sample in terms of the operators `before` and `after` a tick, from the state `found` at its turn. -/
theorem opSample_eq_settled {found before after : Vector Operator 36} {o : OpNum} (hout : found[o].out = before[o].out)
    (hprev : found[o].prevOut = before[o].prevOut) (hlevel : found[o].level = after[o].level)
    (hbelow : ∀ p < o, found[p] = after[p]) (hphase : ∀ p : OpNum, found[p].phase = after[p].phase) (m : Memory)
    (tp : BitVec 8) (n : BitVec 23) :
    opSample m tp n found o = wave (wsEff m o)
      (if fRYT m = true ∧ (o = 13 ∨ o = 16 ∨ o = 17) then phaseIn m n after o
       else BitVec.ofInt 10 ((after[o].phase.toNat / 512 : Nat) + settledModIn m before after o))
      (attOf m tp o after[o]) := by
  rw [opSample, attOf_eq_of_level hlevel]
  congr 1
  split
  case isTrue hrhythm => exact phaseIn_of_rhythm hrhythm hphase n
  case isFalse hordinary =>
    rw [phaseIn_of_not_rhythm hordinary, modulatedPos_eq, hphase, modIn_eq_settledModIn hout hprev hbelow]

/-- Settles O45: the turn of an operator finds all that its sample reads as the tick leaves it, but for its own samples. -/
theorem tickSettlesEveryModulationChain : Obligations.TickSettlesEveryModulationChain := by
  intro c o
  dsimp only
  rw [nativeTick_ops]
  obtain ⟨found, hself, hlower, hphase, hturn⟩ := pass2_turn c (pass1 c) o
  have hout : (pass1 c)[o].out = c.ops[o].out := by rw [pass1_get, envAdvance_out, phaseAdvance_out]
  have hprev : (pass1 c)[o].prevOut = c.ops[o].prevOut := by rw [pass1_get, envAdvance_prevOut, phaseAdvance_prevOut]
  rw [← hself] at hout hprev hturn
  have hlevel : found[o].level = (pass2 c (pass1 c))[o].level := by rw [hturn]
  rw [← opSample_eq_settled hout hprev hlevel hlower hphase, hturn]
  exact ⟨hout, rfl⟩

/-! ## Feedback (R211) -/

theorem fbMod_of_zero {m : Memory} {o : OpNum} (h : (fFB m (ctl m o)).toNat = 0) (op : Operator) : fbMod m o op = 0 := if_pos h

theorem fbMod_of_ne_zero {m : Memory} {o : OpNum} (h : (fFB m (ctl m o)).toNat ≠ 0) (op : Operator) :
    fbMod m o op = (op.prevOut + op.out) / 2 ^ (9 - (fFB m (ctl m o)).toNat) := by
  rw [fbMod, if_neg h, Int.shiftRight_eq_div_pow]
  norm_cast

theorem fbMod_mem_range {op : Operator} (h : op.Inv) (m : Memory) (o : OpNum) :
    -2043 ≤ fbMod m o op ∧ fbMod m o op ≤ 2042 := by
  obtain ⟨⟨hout₁, hout₂⟩, ⟨hprev₁, hprev₂⟩, -⟩ := h
  by_cases hfb : (fFB m (ctl m o)).toNat = 0
  · rw [fbMod_of_zero hfb]
    decide
  · have hpow : (2 : Int) ^ 2 ≤ 2 ^ (9 - (fFB m (ctl m o)).toNat) := pow_le_pow_right₀ (by decide) (by omega)
    have hpos : (0 : Int) < 2 ^ (9 - (fFB m (ctl m o)).toNat) := by positivity
    rw [fbMod_of_ne_zero hfb]
    generalize (2 : Int) ^ (9 - (fFB m (ctl m o)).toNat) = d at hpow hpos
    exact ⟨(Int.le_ediv_iff_mul_le hpos).mpr (by omega), Int.ediv_le_of_le_mul hpos (by omega)⟩

theorem modIn_op1 {m : Memory} {c : ChanNum}
    (h : chanMode m c = .twoOp ∨ chanMode m c = .fourOpFirst ∨ (chanMode m c = .rhythm ∧ c = 6)) (ops : Vector Operator 36) :
    modIn m ops (op1 c) = fbMod m (op1 c) ops[op1 c] := by
  rcases h with h | h | ⟨h, hc⟩ <;> simp only [modIn, chOf_op1, isFirstOp_op1, h]
  · rfl
  · rfl
  · rw [if_pos hc]
    rfl

/-- Settles O58: the arithmetic shift is a division that rounds down, and the widest sum is divided by 4. -/
theorem feedbackBlendsTheLastTwoSamples : Obligations.FeedbackBlendsTheLastTwoSamples := by
  refine ⟨fun m o op => ⟨fun hfb => fbMod_of_zero hfb op, fun hfb => ?_, fun hinv => fbMod_mem_range hinv m o⟩,
    fun m ops c h => modIn_op1 h ops⟩
  have hpos : (0 : Int) < 2 ^ (9 - (fFB m (ctl m o)).toNat) := by positivity
  rw [fbMod_of_ne_zero hfb]
  exact ⟨Int.ediv_mul_le _ hpos.ne', Int.lt_ediv_add_one_mul_self _ hpos⟩

end Sys2Proof.Machine
end

section
/-! The channel composer (R240 to R249): the mode of a channel from the pairs in effect and rhythm mode, and the algorithms of
the 2-operator channels and of the 4-operator pairs, operator by operator. -/

namespace Sys2Proof.Machine

/-! ## The mode of a channel (R240) -/

theorem pairOfFirst_of_pairOfSecond : ∀ c : ChanNum, pairOfSecond c ≠ none → pairOfFirst c = none := by decide

/-- The rhythm channels of R260 are in no candidate pair. -/
theorem pairs_of_rhythmChannel : ∀ c : ChanNum, c = 6 ∨ c = 7 ∨ c = 8 → pairOfFirst c = none ∧ pairOfSecond c = none := by
  decide

theorem rhythmChannel_iff : ∀ c : ChanNum, (c = 6 ∨ c = 7 ∨ c = 8) ↔ 6 ≤ c.val ∧ c.val ≤ 8 := by decide

section
variable {m : Memory} {c : ChanNum}

theorem pairFirst_of_none (h : pairOfFirst c = none) : pairFirst m c = false := by rw [pairFirst, h]

theorem pairSecond_of_none (h : pairOfSecond c = none) : pairSecond m c = false := by rw [pairSecond, h]

/-- R141: no channel is the first of one pair and the second of another. -/
theorem not_pairFirst_of_pairSecond (h : pairSecond m c = true) : pairFirst m c = false := by
  obtain ⟨n, hn, -⟩ := pairSecond_iff.mp h
  exact pairFirst_of_none (pairOfFirst_of_pairOfSecond c (by simp [hn]))

theorem fNEW_of_pairInEffect {n : Fin 6} (h : pairInEffect m n = true) : fNEW m = true := (Bool.and_eq_true_iff.mp h).1

theorem fNEW_of_pairFirst (h : pairFirst m c = true) : fNEW m = true := by
  obtain ⟨n, -, hn⟩ := pairFirst_iff.mp h
  exact fNEW_of_pairInEffect hn

theorem fNEW_of_pairSecond (h : pairSecond m c = true) : fNEW m = true := by
  obtain ⟨n, -, hn⟩ := pairSecond_iff.mp h
  exact fNEW_of_pairInEffect hn

theorem chanMode_of_pairFirst (h : pairFirst m c = true) : chanMode m c = .fourOpFirst := if_pos h

theorem chanMode_of_pairSecond (h : pairSecond m c = true) : chanMode m c = .fourOpSecond := by
  rw [chanMode, not_pairFirst_of_pairSecond h, if_neg Bool.false_ne_true, if_pos h]

theorem chanMode_chanAbove (h : pairFirst m c = true) : chanMode m (chanAbove c) = .fourOpSecond :=
  chanMode_of_pairSecond (by rw [pairSecond_chanAbove, h])

theorem chanMode_of_rhythm (hryt : fRYT m = true) (hc : c = 6 ∨ c = 7 ∨ c = 8) : chanMode m c = .rhythm := by
  obtain ⟨hfirst, hsecond⟩ := pairs_of_rhythmChannel c hc
  rw [chanMode, pairFirst_of_none hfirst, pairSecond_of_none hsecond, if_neg Bool.false_ne_true, if_neg Bool.false_ne_true,
    if_pos ⟨hryt, hc⟩]

theorem chanMode_eq_fourOpFirst_iff : chanMode m c = .fourOpFirst ↔ pairFirst m c = true := by
  refine ⟨fun h => ?_, chanMode_of_pairFirst⟩
  unfold chanMode at h
  split_ifs at h
  assumption

theorem chanMode_eq_fourOpSecond_iff : chanMode m c = .fourOpSecond ↔ pairSecond m c = true :=
  ⟨pairSecond_of_fourOpSecond, chanMode_of_pairSecond⟩

theorem chanMode_eq_rhythm_iff : chanMode m c = .rhythm ↔ fRYT m = true ∧ (c = 6 ∨ c = 7 ∨ c = 8) := by
  refine ⟨fun h => ?_, fun ⟨hryt, hc⟩ => chanMode_of_rhythm hryt hc⟩
  unfold chanMode at h
  split_ifs at h
  assumption

end

/-- Settles O48: the pairs and the rhythm channels are disjoint, so the order of the tests of R240 does not show. -/
theorem modesOfAChannel : Obligations.ModesOfAChannel := by
  intro m c
  refine ⟨chanMode_eq_fourOpFirst_iff, chanMode_eq_fourOpSecond_iff, fun hnew => ⟨fun hfirst => ?_, fun hsecond => ?_⟩, ?_⟩
  · exact Bool.eq_false_iff.mp hnew (fNEW_of_pairFirst (chanMode_eq_fourOpFirst_iff.mp hfirst))
  · exact Bool.eq_false_iff.mp hnew (fNEW_of_pairSecond (chanMode_eq_fourOpSecond_iff.mp hsecond))
  · rw [chanMode_eq_rhythm_iff, rhythmChannel_iff]

/-! ## The modulation input of an operator, by the mode of its channel (R249) -/

@[simp] theorem opBelow_op2 : ∀ c : ChanNum, opBelow (op2 c) = op1 c := by decide

/-- R28: the four operators of a pair are each three above the one before. -/
theorem opBelow_op1_chanAbove : ∀ c : ChanNum, pairOfFirst c ≠ none → opBelow (op1 (chanAbove c)) = op2 c := by decide

theorem opBelow_op1_chanAbove_of_pairFirst {m : Memory} {c : ChanNum} (h : pairFirst m c = true) :
    opBelow (op1 (chanAbove c)) = op2 c := by
  obtain ⟨n, hn, -⟩ := pairFirst_iff.mp h
  exact opBelow_op1_chanAbove c (by simp [hn])

section
variable {m : Memory} {c : ChanNum}

/-- The second operator beside `modIn_op1`: in series with the first or not, as `CNT` says. -/
theorem modIn_op2 (h : chanMode m c = .twoOp ∨ chanMode m c = .fourOpFirst ∨ (chanMode m c = .rhythm ∧ c = 6))
    (ops : Vector Operator 36) : modIn m ops (op2 c) = if fCNT m c then 0 else ops[op1 c].out := by
  rcases h with h | h | ⟨h, hc⟩ <;> simp only [modIn, chOf_op2, isFirstOp_op2, opBelow_op2, h]
  · rfl
  · rfl
  · rw [if_pos hc]
    rfl

theorem modIn_op1_of_fourOpSecond (h : chanMode m c = .fourOpSecond) (ops : Vector Operator 36) :
    modIn m ops (op1 c) = if !fCNT m (chanBelow c) && fCNT m c then 0 else ops[opBelow (op1 c)].out := by
  simp only [modIn, chOf_op1, isFirstOp_op1, h, if_true]

theorem modIn_op2_of_fourOpSecond (h : chanMode m c = .fourOpSecond) (ops : Vector Operator 36) :
    modIn m ops (op2 c) = if fCNT m (chanBelow c) && fCNT m c then 0 else ops[op1 c].out := by
  simp only [modIn, chOf_op2, isFirstOp_op2, opBelow_op2, h, Bool.false_eq_true, if_false]

/-! ## The sample of a channel, by its mode (R241 to R248) -/

theorem chanOut_of_twoOp (h : chanMode m c = .twoOp) (ops : Vector Operator 36) :
    chanOut m ops c = if fCNT m c then ops[op1 c].out + ops[op2 c].out else ops[op2 c].out := by
  simp only [chanOut, h]

theorem chanOut_of_fourOpSecond (h : chanMode m c = .fourOpSecond) (ops : Vector Operator 36) : chanOut m ops c = 0 := by
  simp only [chanOut, h]

/-- The four sums of R243 to R246, as one choice by the two `CNT` bits. -/
theorem chanOut_of_fourOpFirst (h : chanMode m c = .fourOpFirst) (ops : Vector Operator 36) :
    chanOut m ops c =
      (if fCNT m c then ops[op1 c].out else if fCNT m (chanAbove c) then ops[op2 c].out else 0) +
        (if fCNT m c && fCNT m (chanAbove c) then ops[op1 (chanAbove c)].out else 0) + ops[op2 (chanAbove c)].out := by
  simp only [chanOut, h]
  cases fCNT m c <;> cases fCNT m (chanAbove c) <;> simp

end

/-! ## The algorithms -/

/-- Settles O46: the equations of the mode, at each value of `CNT`. -/
theorem twoOperatorAlgorithms : Obligations.TwoOperatorAlgorithms := by
  intro m ops c h
  refine ⟨modIn_op1 (.inl h) ops, ?_, ?_⟩
  all_goals
    intro hcnt
    rw [modIn_op2 (.inl h), chanOut_of_twoOp h, hcnt]
    exact ⟨rfl, rfl⟩

/-- The inputs of the four operators of a pair in effect, as functions of the two `CNT` bits (R243 to R246, R249). -/
theorem modIn_of_pairFirst {m : Memory} {c : ChanNum} (h : pairFirst m c = true) (ops : Vector Operator 36) :
    modIn m ops (op1 c) = fbMod m (op1 c) ops[op1 c] ∧
      modIn m ops (op2 c) = (if fCNT m c then 0 else ops[op1 c].out) ∧
      modIn m ops (op1 (chanAbove c)) = (if !fCNT m c && fCNT m (chanAbove c) then 0 else ops[op2 c].out) ∧
      modIn m ops (op2 (chanAbove c)) =
        (if fCNT m c && fCNT m (chanAbove c) then 0 else ops[op1 (chanAbove c)].out) := by
  have hfirst := chanMode_of_pairFirst h
  have hsecond := chanMode_chanAbove h
  refine ⟨modIn_op1 (.inr (.inl hfirst)) ops, modIn_op2 (.inr (.inl hfirst)) ops, ?_, ?_⟩
  · simp only [modIn_op1_of_fourOpSecond hsecond, chanBelow_chanAbove_of_pairFirst h, opBelow_op1_chanAbove_of_pairFirst h]
  · simp only [modIn_op2_of_fourOpSecond hsecond, chanBelow_chanAbove_of_pairFirst h]

/-- Settles O47: the inputs and the sum of the pair, at each value of the two `CNT` bits. -/
theorem fourOperatorAlgorithms : Obligations.FourOperatorAlgorithms := by
  intro m ops c h
  have hfirst := chanMode_of_pairFirst h
  have hsecond := chanMode_chanAbove h
  obtain ⟨h1, h2, h3, h4⟩ := modIn_of_pairFirst h ops
  have hout := chanOut_of_fourOpFirst hfirst ops
  refine ⟨hfirst, hsecond, chanOut_of_fourOpSecond hsecond ops, h1, ?_, ?_, ?_, ?_⟩
  all_goals
    intro hk1 hk2
    rw [h2, h3, h4, hout, hk1, hk2]
    simp

end Sys2Proof.Machine
end

section
/-! The rhythm unit (R260 to R267): with `RYT` = 1, the waveform positions of the percussion operators, the inputs of the bass
drum and the tom-tom, and the doubled samples of channels 6, 7 and 8. -/

namespace Sys2Proof.Machine

/-! ## The positions as numbers (R262 to R265) -/

theorem getLsbD_phasePos (op : Operator) (i : Nat) : (phasePos op).getLsbD i = (op.phase.toNat / 512).testBit i := by
  rw [← BitVec.testBit_toNat, phasePos_toNat]

theorem hiHatPos_toNat :
    ∀ rm nbit : Bool, (hiHatPos rm nbit).toNat = 512 * rm.toNat + if rm ^^ nbit then 0xD0 else 0x34 := by decide

theorem snarePos_toNat :
    ∀ h8 nbit : Bool, (snarePos h8 nbit).toNat = 512 * h8.toNat + 256 * (h8 ^^ nbit).toNat := by decide

theorem cymbalPos_toNat : ∀ rm : Bool, (cymbalPos rm).toNat = 512 * rm.toNat + 0x80 := by decide

section
variable {m : Memory}

/-! ## The operators that take their position from the rhythm unit -/

theorem phaseIn_hiHat (hryt : fRYT m = true) (n : BitVec 23) (ops : Vector Operator 36) :
    phaseIn m n ops 13 = hiHatPos (rmXor (phasePos ops[(13 : OpNum)]) (phasePos ops[(17 : OpNum)])) (n.getLsbD 0) := by
  rw [phaseIn, if_pos hryt, if_pos rfl]

theorem phaseIn_snare (hryt : fRYT m = true) (n : BitVec 23) (ops : Vector Operator 36) :
    phaseIn m n ops 16 = snarePos ((phasePos ops[(13 : OpNum)]).getLsbD 8) (n.getLsbD 0) := by
  rw [phaseIn, if_pos hryt, if_neg (by decide), if_pos rfl]

theorem phaseIn_cymbal (hryt : fRYT m = true) (n : BitVec 23) (ops : Vector Operator 36) :
    phaseIn m n ops 17 = cymbalPos (rmXor (phasePos ops[(13 : OpNum)]) (phasePos ops[(17 : OpNum)])) := by
  rw [phaseIn, if_pos hryt, if_neg (by decide), if_neg (by decide), if_pos rfl]

/-! ## The tom-tom and the other operators of channels 7 and 8 have no modulation input (R249, R266) -/

theorem modIn_of_rhythm {o : OpNum} (h : chanMode m (chOf o) = .rhythm) (h6 : chOf o ≠ 6) (ops : Vector Operator 36) :
    modIn m ops o = 0 := by
  simp only [modIn, h, if_neg h6]

/-- R209 without an input: the position is the operator's own phase. -/
theorem phaseIn_toNat_of_modIn_eq_zero {o : OpNum} (h : ¬ (fRYT m = true ∧ (o = 13 ∨ o = 16 ∨ o = 17)))
    {ops : Vector Operator 36} (hmod : modIn m ops o = 0) (n : BitVec 23) :
    (phaseIn m n ops o).toNat = ops[o].phase.toNat / 512 := by
  rw [phaseIn_of_not_rhythm h, modulatedPos, hmod, Int.add_zero, BitVec.ofInt_natCast, BitVec.ofNat_toNat, BitVec.setWidth_eq,
    phasePos_toNat]

/-! ## The samples of the rhythm channels (R267) -/

theorem chanOut_of_rhythm {c : ChanNum} (h : chanMode m c = .rhythm) (ops : Vector Operator 36) :
    chanOut m ops c = if c = 6 then 2 * ops[op2 c].out else 2 * ops[op1 c].out + 2 * ops[op2 c].out := by
  simp only [chanOut, h]

end

/-- Settles O49: the positions as numbers, the inputs of channel 6 as of any channel with feedback, the tom-tom without an
input, and the samples by the mode of the three channels. -/
theorem rhythmInstruments : Obligations.RhythmInstruments := by
  intro m n ops hryt
  have hmode (c : ChanNum) (hc : c = 6 ∨ c = 7 ∨ c = 8) : chanMode m c = .rhythm := chanMode_of_rhythm hryt hc
  have hbass := hmode 6 (.inl rfl)
  have htom : modIn m ops 14 = 0 := modIn_of_rhythm (hmode 8 (.inr (.inr rfl))) (by decide) ops
  simp only [← getLsbD_phasePos]
  refine ⟨?hiHat, ?snare, ?cymbal, ?tomTom, ?bassFirst, ?bassSecond, ?channel6, ?channel7, ?channel8⟩
  case hiHat => rw [phaseIn_hiHat hryt, hiHatPos_toNat, rmXor]
  case snare => rw [phaseIn_snare hryt, snarePos_toNat]
  case cymbal => rw [phaseIn_cymbal hryt, cymbalPos_toNat, rmXor]
  case tomTom => exact phaseIn_toNat_of_modIn_eq_zero (by simp) htom n
  -- op1 6 = 12, op2 6 = 15, and so on (R28), hold by evaluation of the numbering.
  case bassFirst => exact modIn_op1 (.inr (.inr ⟨hbass, rfl⟩)) ops
  case bassSecond => exact modIn_op2 (.inr (.inr ⟨hbass, rfl⟩)) ops
  case channel6 => exact chanOut_of_rhythm hbass ops
  case channel7 => exact chanOut_of_rhythm (hmode 7 (.inr (.inl rfl))) ops
  case channel8 => exact chanOut_of_rhythm (hmode 8 (.inr (.inr rfl))) ops

end Sys2Proof.Machine
end

section
/-! The resampler (R284 to R286): `GEN` as so many turns of its loop, and the interpolation between the last two frames. -/

namespace Sys2Proof.Machine

/-! ## Samples and frames (R63, R64) -/

/-- R64: an integer in the range of a sample is the value of its sample. -/
theorem toSample_toInt {v : Int} (hlo : -32768 ≤ v) (hhi : v ≤ 32767) : (toSample v).toInt = v :=
  BitVec.toInt_ofInt_eq_self (by decide) hlo (Int.lt_add_one_of_le hhi)

theorem frame_getElem (f : OutPos → Sample) (x : OutPos) : (#v[f 0, f 1, f 2, f 3] : Frame)[x] = f x := by
  fin_cases x <;> rfl

/-! ## The loop (R284) -/

/-- R284: in a turn that the loop takes the position does not wrap, so its new word is that of the difference. -/
theorem resampleTick_eq {c : Chip} (h : c.rateratio.toNat ≤ c.samplecnt.toNat) :
    resampleTick c = { (nativeTick c).1 with
      old := c.cur
      cur := (nativeTick c).2
      samplecnt := BitVec.ofNat 28 (c.samplecnt.toNat - c.rateratio.toNat) } := by
  rw [← resampleTick_samplecnt_toNat h, BitVec.ofNat_toNat, BitVec.setWidth_eq]
  rfl

theorem iterate_resampleTick_rateratio (k : Nat) (c : Chip) : (resampleTick^[k] c).rateratio = c.rateratio := by
  induction k with
  | zero => rfl
  | succ k ih => rw [Function.iterate_succ_apply', resampleTick_rateratio, ih]

section
variable {c : Chip} (hratio : 1 ≤ c.rateratio.toNat)
include hratio

/-- R284: all the turns of the loop together leave the remainder of the position. -/
theorem iterate_resampleTick_samplecnt_toNat :
    (resampleTick^[c.samplecnt.toNat / c.rateratio.toNat] c).samplecnt.toNat =
      c.samplecnt.toNat % c.rateratio.toNat := by
  rw [← tickLoop_eq_iterate hratio le_rfl, tickLoop_samplecnt_toNat hratio le_rfl]

/-- R123: the loop as its turns, then the interpolation and the advance. -/
theorem chipGen_eq :
    chipGen c = { resampleTick^[c.samplecnt.toNat / c.rateratio.toNat] c with
      outbuf := interpolated (resampleTick^[c.samplecnt.toNat / c.rateratio.toNat] c)
      samplecnt := BitVec.ofNat 28 (c.samplecnt.toNat % c.rateratio.toNat + 1024) } := by
  rw [← tickLoop_eq_iterate hratio le_rfl, ← chipGen_samplecnt_toNat hratio, BitVec.ofNat_toNat, BitVec.setWidth_eq]
  rfl

end

/-- Settles O9: the turn and the loop as equations, and what the loop leaves of the position and the ratio. -/
theorem genIsTheResamplerLoop : Obligations.GenIsTheResamplerLoop := by
  refine ⟨fun c => resampleTick_eq, fun s hi hne => ?_⟩
  have hratio := one_le_rateratio_iff.mpr hne
  refine ⟨?_, iterate_resampleTick_samplecnt_toNat hratio, iterate_resampleTick_rateratio _ _⟩
  rw [exec_gen_of_init hi hne, chipGen_eq hratio]
  rfl

/-! ## The interpolation (R285) -/

/-- A weighted mean of two integers, truncated, lies between them: it does so exactly, and each bound is an integer. -/
theorem tdiv_weighted_mem {a b q r : Int} (hr : 0 < r) (hq : 0 ≤ q) (hqr : q ≤ r) :
    min a b ≤ Int.tdiv (a * (r - q) + b * q) r ∧ Int.tdiv (a * (r - q) + b * q) r ≤ max a b := by
  have hw : 0 ≤ r - q := sub_nonneg.mpr hqr
  constructor
  · calc min a b = Int.tdiv (min a b * r) r := (Int.mul_tdiv_cancel _ hr.ne').symm
      _ = Int.tdiv (min a b * (r - q) + min a b * q) r := by rw [← mul_add, sub_add_cancel]
      _ ≤ _ := Int.tdiv_le_tdiv hr <| add_le_add (mul_le_mul_of_nonneg_right (min_le_left a b) hw)
          (mul_le_mul_of_nonneg_right (min_le_right a b) hq)
  · calc Int.tdiv (a * (r - q) + b * q) r ≤ Int.tdiv (max a b * (r - q) + max a b * q) r :=
          Int.tdiv_le_tdiv hr <| add_le_add (mul_le_mul_of_nonneg_right (le_max_left a b) hw)
            (mul_le_mul_of_nonneg_right (le_max_right a b) hq)
      _ = Int.tdiv (max a b * r) r := by rw [← mul_add, sub_add_cancel]
      _ = max a b := Int.mul_tdiv_cancel _ hr.ne'

/-- R285: between two samples the interpolation is itself in the range of a sample, so nothing is cut off. -/
theorem interpolate_toInt {c : Chip} (hcnt : c.samplecnt.toNat < c.rateratio.toNat) (x : OutPos) :
    (interpolate c x).toInt = Int.tdiv
        ((c.old[x]).toInt * ((c.rateratio.toNat : Int) - c.samplecnt.toNat) + (c.cur[x]).toInt * c.samplecnt.toNat)
        c.rateratio.toNat ∧
      min (c.old[x]).toInt (c.cur[x]).toInt ≤ (interpolate c x).toInt ∧
      (interpolate c x).toInt ≤ max (c.old[x]).toInt (c.cur[x]).toInt := by
  obtain ⟨hmin, hmax⟩ := tdiv_weighted_mem (a := (c.old[x]).toInt) (b := (c.cur[x]).toInt)
    (r := c.rateratio.toNat) (by omega) (Int.natCast_nonneg c.samplecnt.toNat) (by omega)
  have hold : -32768 ≤ (c.old[x]).toInt ∧ (c.old[x]).toInt < 32768 := ⟨BitVec.le_toInt _, BitVec.toInt_lt⟩
  have hcur : -32768 ≤ (c.cur[x]).toInt ∧ (c.cur[x]).toInt < 32768 := ⟨BitVec.le_toInt _, BitVec.toInt_lt⟩
  rw [interpolate, toSample_toInt (by omega) (by omega)]
  exact ⟨rfl, hmin, hmax⟩

/-- Settles O10: after the loop the position is below the ratio, so each sample is `interpolate_toInt` there. -/
theorem genInterpolatesBetweenTwoFrames : Obligations.GenInterpolatesBetweenTwoFrames := by
  intro s hi hne
  have hratio := one_le_rateratio_iff.mpr hne
  refine ⟨_, exec_gen_of_init hi hne, rfl, fun x => ?_⟩
  have hloop := tickLoop_samplecnt_toNat (c := s.chip) hratio le_rfl
  have hframe := interpolate_toInt (c := tickLoop s.chip.samplecnt.toNat s.chip)
    (by rw [hloop, tickLoop_rateratio]; exact Nat.mod_lt _ hratio) x
  rw [hloop, tickLoop_rateratio] at hframe
  rw [outRead, State.completed_chip, chipGen_outbuf, chipGen_old, chipGen_cur, interpolated, frame_getElem]
  exact hframe

end Sys2Proof.Machine
end

section
/-! Runs of the whole machine from the queue of pending operations (log entry 1): `RESET` and then any number of `GEN`s, and the
ticks and the position that they come to (R287). -/

namespace Sys2Proof.Machine

/-! ## Runs -/

theorem core_run_succ {s t : State} (h : step s = .next t) (k : Nat) :
    Sys2Proof.core.run (k + 1) s = Sys2Proof.core.run k t := by
  have hcore : Sys2Proof.core.step s = .next t := h
  simp only [Host.Core.run, hcore]

theorem step_of_pending_encode {s : State} {i : Instr} {rest : List HostWord} (hwf : i.wf = true)
    (hp : s.pending = encode i :: rest) : step s = exec i { s with pending := rest } := by
  rw [step_of_pending_cons hp, decodeWord_encode hwf]

/-- A queue of `GEN`s alone iterates `chipGen`, whose last frame is what was returned last (R123). -/
theorem core_run_gens {n : Nat} {s : State} (hi : s.chip.init = true) (hratio : 1 ≤ s.chip.rateratio.toNat)
    (hp : s.pending = List.replicate (n + 1) (encode .gen)) :
    Sys2Proof.core.run (n + 1) s = .next
      ({ chip := chipGen^[n + 1] s.chip, pending := [], reply := .frame (chipGen^[n + 1] s.chip).outbuf } : State) := by
  induction n generalizing s with
  | zero =>
    rw [core_run_succ ((step_of_pending_encode rfl hp).trans (exec_gen_of_init hi (one_le_rateratio_iff.mp hratio)))]
    rfl
  | succ n ih =>
    rw [core_run_succ ((step_of_pending_encode rfl hp).trans (exec_gen_of_init hi (one_le_rateratio_iff.mp hratio))),
      ih ((chipGen_init _).trans hi) (by rwa [State.completed_chip, chipGen_rateratio]) rfl]
    rfl

theorem core_run_reset_gens (rate : BitVec 32) (n : Nat) (s : State) :
    Sys2Proof.core.run (n + 2)
      ({ s with pending := encode (.reset rate) :: List.replicate (n + 1) (encode .gen) } : State) = .next
      ({ chip := chipGen^[n + 1] (Chip.afterReset rate), pending := [],
         reply := .frame (chipGen^[n + 1] (Chip.afterReset rate)).outbuf } : State) := by
  rw [core_run_succ ((step_of_pending_encode rfl rfl).trans (exec_reset rate _))]
  exact core_run_gens rfl (one_le_ratioOf_toNat rate) rfl

/-! ## Ticks and position (R287) -/

theorem iterate_chipGen_rateratio (k : Nat) (c : Chip) : (chipGen^[k] c).rateratio = c.rateratio := by
  induction k with
  | zero => rfl
  | succ k ih => rw [Function.iterate_succ_apply', chipGen_rateratio, ih]

/-- R287: the first `GEN` finds the position 0 and runs no tick; each later one adds one output frame to what the turns so far
have left, so quotient and remainder are those of the frames in all. -/
theorem iterate_chipGen_afterReset (rate : BitVec 32) (n : Nat) :
    (chipGen^[n + 1] (Chip.afterReset rate)).timer.toNat = (n * 1024 / (ratioOf rate).toNat) % 16384 ∧
      (chipGen^[n + 1] (Chip.afterReset rate)).samplecnt.toNat = n * 1024 % (ratioOf rate).toNat + 1024 := by
  have hkept (k : Nat) : (chipGen^[k] (Chip.afterReset rate)).rateratio = ratioOf rate := iterate_chipGen_rateratio k _
  have hratio (k : Nat) : 1 ≤ (chipGen^[k] (Chip.afterReset rate)).rateratio.toNat := by
    rw [hkept]
    exact one_le_ratioOf_toNat rate
  induction n with
  | zero =>
    rw [Function.iterate_succ_apply', chipGen_timer_toNat (hratio 0), chipGen_samplecnt_toNat (hratio 0), hkept, Nat.zero_mul]
    exact ⟨congrArg (· % 16384) (Nat.zero_add _), rfl⟩
  | succ n ih =>
    obtain ⟨htimer, hcnt⟩ := ih
    have hframes : (n + 1) * 1024 = (ratioOf rate).toNat * (n * 1024 / (ratioOf rate).toNat) +
        (n * 1024 % (ratioOf rate).toNat + 1024) := by
      rw [← Nat.add_assoc, Nat.div_add_mod, Nat.succ_mul]
    rw [Function.iterate_succ_apply', chipGen_timer_toNat (hratio _), chipGen_samplecnt_toNat (hratio _), hkept, htimer, hcnt,
      hframes, Nat.mul_add_div (one_le_ratioOf_toNat rate), Nat.mul_add_mod, Nat.mod_add_mod]
    exact ⟨rfl, rfl⟩

/-- Settles O56: the run iterates `chipGen`, whose timer and position are known. -/
theorem ticksExecutedSinceReset : Obligations.TicksExecutedSinceReset :=
  fun rate n s => ⟨_, core_run_reset_gens rate n s, iterate_chipGen_afterReset rate n⟩

end Sys2Proof.Machine
end

section
/-! The mixer (R280 to R282): which channels go to an output, their sum, and the clip. -/

namespace Sys2Proof.Machine

/-! ## The selection (R280) -/

section
variable {m : Memory}

theorem panEff_of_new (h : fNEW m = true) (c : ChanNum) (x : OutPos) : panEff m c x = fOUT m c x := if_pos h

theorem panEff_of_not_new (h : fNEW m = false) (c : ChanNum) (x : OutPos) : panEff m c x = decide (x.val < 2) := by
  rw [panEff, h]
  rfl

end

theorem outPos_lt_two_iff : ∀ x : OutPos, x.val < 2 ↔ x = 0 ∨ x = 1 := by decide

/-! ## The sum and the clip (R282) -/

theorem mix_eq_sum (m : Memory) (ops : Vector Operator 36) (x : OutPos) :
    mix m ops x = ∑ c : ChanNum, if panEff m c x then chanOut m ops c else 0 := by
  rw [Fin.sum_univ_def, List.sum_eq_foldl, List.foldl_map, mix]
  refine List.foldl_ext _ _ _ fun acc c _ => ?_
  split
  · rfl
  · exact (add_zero acc).symm

theorem toSample_clip16_toInt (v : Int) : (toSample (clip16 v)).toInt = max (-32768) (min 32767 v) :=
  toSample_toInt (le_max_left _ _) (max_le (by decide) (min_le_left _ _))

theorem nativeFrame_getElem (m : Memory) (ops : Vector Operator 36) (x : OutPos) :
    (nativeFrame m ops)[x] = toSample (clip16 (mix m ops x)) :=
  frame_getElem (fun x => toSample (clip16 (mix m ops x))) x

section
variable {m : Memory} (h : fNEW m = false) (ops : Vector Operator 36)
include h

/-- R280: outside OPL3 mode the sum depends on the output only through the selection. -/
theorem mix_of_not_new (x : OutPos) :
    mix m ops x = if x.val < 2 then ∑ c : ChanNum, chanOut m ops c else 0 := by
  rw [mix_eq_sum]
  simp only [panEff_of_not_new h, decide_eq_true_eq]
  split
  · rfl
  · exact Finset.sum_const_zero

theorem nativeFrame_of_not_new :
    (nativeFrame m ops)[0] = (nativeFrame m ops)[1] ∧ (nativeFrame m ops)[2] = 0#16 ∧ (nativeFrame m ops)[3] = 0#16 := by
  have hsilent (x : OutPos) (hx : ¬ x.val < 2) : toSample (clip16 (mix m ops x)) = 0#16 := by
    rw [mix_of_not_new h, if_neg hx]
    rfl
  have hboth : mix m ops 0 = mix m ops 1 := (mix_of_not_new h ops 0).trans (mix_of_not_new h ops 1).symm
  exact ⟨congrArg (fun v => toSample (clip16 v)) hboth, hsilent 2 (by decide), hsilent 3 (by decide)⟩

end

/-- Settles O50: the native frame position by position, and the selection by `NEW`. -/
theorem mixerSelectsSumsAndClips : Obligations.MixerSelectsSumsAndClips := by
  intro c
  refine ⟨fun x => ?_, panEff_of_new, fun h => ⟨fun ch x => ?_, ?_⟩⟩
  · rw [nativeTick_frame, nativeFrame_getElem, toSample_clip16_toInt, mix_eq_sum]
  · rw [panEff_of_not_new h, decide_eq_true_eq, outPos_lt_two_iff]
  · rw [nativeTick_frame]
    exact nativeFrame_of_not_new h _

end Sys2Proof.Machine
end

section
/-! The silence after `RESET` (R331): with the register file empty every operator rests at its value of R38, so every tick and
every output frame is zero. -/

namespace Sys2Proof.Machine

/-! ## The fields of an empty register file (R38) -/

theorem Memory.opReg_nil (base : Nat) (o : OpNum) : Memory.opReg [] base o = 0#8 := Memory.read_nil (opAddr base o).toNat

theorem Memory.chanReg_nil (base : Nat) (c : ChanNum) : Memory.chanReg [] base c = 0#8 :=
  Memory.read_nil (chanAddr base c).toNat

theorem fFNUM_nil (c : ChanNum) : fFNUM [] c = 0#10 := by
  rw [fFNUM, Memory.chanReg_nil, Memory.chanReg_nil]
  rfl

theorem fFB_nil (c : ChanNum) : fFB [] c = 0#3 := congrArg (·.extractLsb' 1 3) (Memory.chanReg_nil 0xC0 c)

theorem fVIB_nil (o : OpNum) : fVIB [] o = false := congrArg (·.getLsbD 6) (Memory.opReg_nil 0x20 o)

theorem fAM_nil (o : OpNum) : fAM [] o = false := congrArg (·.getLsbD 7) (Memory.opReg_nil 0x20 o)

theorem fTL_nil (o : OpNum) : fTL [] o = 0#6 := congrArg (·.extractLsb' 0 6) (Memory.opReg_nil 0x40 o)

theorem fRYT_nil : fRYT [] = false := rfl

theorem wsEff_nil (o : OpNum) : wsEff [] o = 0#3 := by
  rw [wsEff, fWS, Memory.opReg_nil]
  exact ite_self _

theorem chanMode_nil : ∀ c : ChanNum, chanMode [] c = .twoOp := by decide

theorem kslAtt_nil (o : OpNum) : kslAtt [] o = 0 := by
  have hpitch : kslPitch [] (ctl [] o) = 0 := by
    rw [kslPitch, fFNUM_nil]
    exact Nat.zero_sub _
  rw [kslAtt_eq_shiftRight, hpitch, Nat.zero_shiftRight]

/-- R182: frequency number 0 and no vibrato give no step. -/
theorem phaseInc_nil (vp : BitVec 3) (o : OpNum) : phaseInc [] vp o = 0 := by
  rw [phaseInc_eq, fnumVib_of_not_vib (fVIB_nil o), fFNUM_nil, BitVec.toNat_zero, Nat.zero_mul, Nat.zero_div, Nat.zero_mul]

/-! ## The operators at rest -/

/-- Every operator at its value of R38. -/
def restingOps : Vector Operator 36 := Vector.replicate 36 Operator.zero

theorem restingOps_get (o : OpNum) : restingOps[o] = Operator.zero := Vector.getElem_replicate o.isLt

/-- R183, R189: the phase does not move, and an operator that is `Off` stays so. -/
theorem pass1_of_resting {c : Chip} (hregs : c.regs = []) (hops : c.ops = restingOps) : pass1 c = restingOps := by
  refine ops_ext fun o => ?_
  rw [pass1_get, hregs, hops, restingOps_get, envAdvance_of_off rfl, phaseAdvance, phaseInc_nil]
  rfl

/-- R196: level 0 alone attenuates. -/
theorem attOf_resting (tp : BitVec 8) (o : OpNum) : attOf [] tp o Operator.zero = 511 := by
  rw [attOf_eq, kslAtt_nil, fTL_nil, fAM_nil]
  rfl

/-- R211, R249: no feedback level, and the operator below has been silent. -/
theorem modIn_resting (o : OpNum) : modIn [] restingOps o = 0 := by
  have hfb (op : Operator) : fbMod [] o op = 0 := fbMod_of_zero (congrArg BitVec.toNat (fFB_nil _)) op
  simp only [modIn, chanMode_nil, hfb, restingOps_get, Operator.zero, ite_self]

theorem phaseIn_resting (n : BitVec 23) (o : OpNum) : phaseIn [] n restingOps o = 0#10 := by
  rw [phaseIn_of_not_rhythm (fun h => Bool.false_ne_true (fRYT_nil.symm.trans h.1)), modulatedPos_eq, restingOps_get,
    modIn_resting]
  rfl

/-- R198, R201: the log value of the sine at position 0 with attenuation 511 is far above what the conversion can show. -/
theorem wave_resting : wave 0#3 0#10 511 = 0 := by
  rw [wave_zero_of_first (by decide), expOf_eq_zero (by omega), Nat.cast_zero]

theorem opSample_resting (tp : BitVec 8) (n : BitVec 23) (o : OpNum) : opSample [] tp n restingOps o = 0 := by
  rw [opSample, phaseIn_resting, restingOps_get, attOf_resting, wsEff_nil, wave_resting]

theorem sampleOp_resting (tp : BitVec 8) (n : BitVec 23) (o : OpNum) : sampleOp [] tp n restingOps o = restingOps := by
  refine ops_ext fun p => ?_
  rw [sampleOp_get, opSample_resting, restingOps_get, restingOps_get]
  exact ite_self _

theorem pass2_of_resting {c : Chip} (hregs : c.regs = []) : pass2 c restingOps = restingOps := by
  rw [pass2, hregs]
  exact List.foldl_fixed' (sampleOp_resting c.tremPos c.noise) opOrder

theorem nativeTick_ops_of_resting {c : Chip} (hregs : c.regs = []) (hops : c.ops = restingOps) :
    (nativeTick c).1.ops = restingOps := by
  rw [nativeTick_ops, pass1_of_resting hregs hops, pass2_of_resting hregs]

/-! ## The frames (R282, R285) -/

theorem frame_ext {f g : Frame} (h : ∀ x : OutPos, f[x] = g[x]) : f = g :=
  Vector.ext fun i hi => h ⟨i, hi⟩

theorem chanOut_resting (c : ChanNum) : chanOut [] restingOps c = 0 := by
  rw [chanOut_of_twoOp (chanMode_nil c), restingOps_get, restingOps_get]
  exact ite_self _

theorem nativeFrame_resting : nativeFrame [] restingOps = zeroFrame := by
  refine frame_ext fun x => ?_
  have hmix : mix [] restingOps x = 0 := by simp only [mix_eq_sum, chanOut_resting, ite_self, Finset.sum_const_zero]
  rw [nativeFrame_getElem, hmix, zeroFrame_getElem]
  rfl

/-- R285: between two zero frames every position of the resampler gives zero. -/
theorem interpolated_of_zeroFrames {c : Chip} (hcur : c.cur = zeroFrame) (hold : c.old = zeroFrame) :
    interpolated c = zeroFrame := by
  refine frame_ext fun x => ?_
  rw [interpolated, frame_getElem, interpolate, hcur, hold, zeroFrame_getElem, BitVec.toInt_zero, Int.zero_mul, Int.zero_mul,
    Int.add_zero, Int.zero_tdiv]
  rfl

/-! ## The silent chip -/

/-- What keeps the core silent: nothing written, every operator at rest, and no sound left in the resampler. -/
structure Chip.Silent (c : Chip) : Prop where
  regs : c.regs = []
  ops : c.ops = restingOps
  cur : c.cur = zeroFrame
  old : c.old = zeroFrame

theorem Chip.afterReset_silent (rate : BitVec 32) : (Chip.afterReset rate).Silent := ⟨rfl, rfl, rfl, rfl⟩

theorem resampleTick_silent (c : Chip) (h : c.Silent) : (resampleTick c).Silent where
  regs := (resampleTick_regs c).trans h.regs
  ops := (resampleTick_ops c).trans (nativeTick_ops_of_resting h.regs h.ops)
  cur := by rw [resampleTick_cur, h.regs, nativeTick_ops_of_resting h.regs h.ops, nativeFrame_resting]
  old := (resampleTick_old c).trans h.cur

theorem tickLoop_silent (n : Nat) {c : Chip} (h : c.Silent) : (tickLoop n c).Silent := tickLoop_keeps resampleTick_silent n c h

theorem chipGen_silent (c : Chip) (h : c.Silent) : (chipGen c).Silent :=
  have hloop := tickLoop_silent c.samplecnt.toNat h
  { regs := (chipGen_regs c).trans h.regs
    ops := (chipGen_ops c).trans hloop.ops
    cur := (chipGen_cur c).trans hloop.cur
    old := (chipGen_old c).trans hloop.old }

theorem chipGen_outbuf_of_silent {c : Chip} (h : c.Silent) : (chipGen c).outbuf = zeroFrame := by
  have hloop := tickLoop_silent c.samplecnt.toNat h
  rw [chipGen_outbuf, interpolated_of_zeroFrames hloop.cur hloop.old]

theorem iterate_chipGen_silent (rate : BitVec 32) (n : Nat) : (chipGen^[n] (Chip.afterReset rate)).Silent :=
  Function.Iterate.rec Chip.Silent (Chip.afterReset_silent rate) chipGen_silent n

/-- Settles O55: `RESET` leaves a silent chip, every `GEN` keeps it silent, and a silent chip gives the zero frame. -/
theorem silenceAfterResetUntilAWrite : Obligations.SilenceAfterResetUntilAWrite := by
  intro rate n s
  have hout : (chipGen^[n + 1] (Chip.afterReset rate)).outbuf = zeroFrame := by
    rw [Function.iterate_succ_apply']
    exact chipGen_outbuf_of_silent (iterate_chipGen_silent rate n)
  exact ⟨_, core_run_reset_gens rate n s, congrArg Reply.frame hout, hout, rfl⟩

end Sys2Proof.Machine
end
